-- ==== Sys2Proof/Word.lean ====
section
/-! DEFINITION. The words of the block (00_scope.md R11): every value is unsigned. -/

namespace Sys2Proof

/-- A byte, 8 bits (R11). -/
abbrev Byte := BitVec 8

/-- A 9-bit count, `u9` (R11; 10_state.md R30, R31). -/
abbrev U9 := BitVec 9

/-- A 16-bit word, `u16` (R11): the event word, `deviceTypeCode`. -/
abbrev U16 := BitVec 16

/-- A 24-bit value, `u24` (R11): `deviceID`. -/
abbrev U24 := BitVec 24

end Sys2Proof
end

