-- ==== Sys2Proof/Config.lean ====
section
/-! DEFINITION. The constants the hardware fixes (00_scope.md R8, R10) and the parameters it leaves open (R9,
R190, 42_diagnostic_mapper.md R122, R123). A parameter set outside its range cannot be built (R190: "a model should
refuse it"). The two OPEN parameters have no default: at reset they are uninterpreted constants (log 5). -/

namespace Sys2Proof.Config

/-- `CMD48`, the command number of Command 48 (R8). -/
abbrev cmd48 : Byte := 0x30#8

/-- `BC48`, the byte count of Command 48 (R8). -/
abbrev bc48 : Byte := 0x08#8

/-- `FRAME_LEN48`, the bytes of a Command 48 frame and of `txf` (R8; 10_state.md R27). -/
abbrev frameLen48 : Nat := 17

/-- `RX_MAX`, the bytes of `rxb` and of the function port's operand buffer (R10; 20_memory.md R51). -/
abbrev rxMax : Nat := 264

/-- `DELIM_STX_UNIQUE` (R8; 41_frame_codec.md R106). -/
abbrev delimStxUnique : Byte := 0x82#8

/-- The flag names of 42_diagnostic_mapper.md R123. The eight are the default set; the set "is not complete", so
`other` stands for any further name a `FLAG_MAP` brings (log 18). -/
inductive FlagName
  | criticalFault
  | nonCriticalFault
  | aoSaturated
  | inputFault
  | inputOutOfRange
  | supplyFault
  | watchdogFault
  | deviceVariableAlert
  | other (n : Nat)
deriving DecidableEq, Repr

/-- One entry `(name, byte, mask)` of `FLAG_MAP` (R122). -/
structure FlagEntry where
  name : FlagName
  byte : Nat
  mask : Byte
deriving DecidableEq, Repr

/-- Exactly one bit of the mask is set (R122). -/
def singleBit (m : Byte) : Bool :=
  (List.range 8).any fun k => m == (1#8 <<< k)

/-- What R122 asks of a `FLAG_MAP`: data bytes 1..6, single-bit masks, no two entries with the same (byte, mask) and
no two with the same name. -/
def flagMapOk (fm : List FlagEntry) : Bool :=
  fm.all (fun e => decide (1 ≤ e.byte ∧ e.byte ≤ 6) && singleBit e.mask) &&
    decide ((fm.map fun e => (e.byte, e.mask)).Nodup) && decide ((fm.map fun e => e.name).Nodup)

/-- A parameter set as an instantiation supplies it, not yet checked (R9). -/
structure RawParams where
  maxRetries : Nat
  deadlineFirst : Nat
  deadlineNext : Nat
  nCallers : Nat
  flagMap : List FlagEntry
deriving DecidableEq, Repr

/-- The ranges of R9 and R190. -/
def RawParams.ok (p : RawParams) : Bool :=
  decide (p.maxRetries ≤ 254) &&
    decide (1 ≤ p.deadlineFirst ∧ p.deadlineFirst ≤ 65535) &&
    decide (1 ≤ p.deadlineNext ∧ p.deadlineNext < p.deadlineFirst) &&
    decide (1 ≤ p.nCallers ∧ p.nCallers ≤ 256) && flagMapOk p.flagMap

/-- A parameter set inside the ranges of R9, R122 and R190: the one kind the machine can be instantiated with. -/
abbrev Params := { p : RawParams // p.ok = true }

/-- Instantiate: a parameter set outside its ranges is refused (R190; 93_implementation_defined.md). -/
def instantiate (p : RawParams) : Option Params :=
  if h : p.ok = true then some ⟨p, h⟩ else none

/-- OPEN (R9, 91_not_in_source.md N24): `DEADLINE_NEXT` - 1 under the default `DEADLINE_FIRST` = 41. No value. -/
opaque deadlineNextFree : Fin 40

/-- OPEN (R9, 91_not_in_source.md N2): the table the source points at and does not give. No value. -/
opaque flagMapFree : List FlagEntry

/-- The reset instance's `FLAG_MAP`: any table that meets R122 (one that does not is no `FLAG_MAP`; log 5). -/
def flagMapOpen : List FlagEntry :=
  if flagMapOk flagMapFree = true then flagMapFree else []

theorem flagMapOpen_ok : flagMapOk flagMapOpen = true := by
  unfold flagMapOpen
  split
  · assumption
  · decide

/-- The defaults of R9, with the two OPEN parameters uninterpreted. -/
def defaultsRaw : RawParams where
  maxRetries := 2
  deadlineFirst := 41
  deadlineNext := deadlineNextFree.val + 1
  nCallers := 1
  flagMap := flagMapOpen

theorem defaultsRaw_ok : defaultsRaw.ok = true := by
  have h := deadlineNextFree.isLt
  simp [RawParams.ok, defaultsRaw, flagMapOpen_ok]
  omega

/-- The instance that `State.reset` describes (R9). -/
def defaults : Params := ⟨defaultsRaw, defaultsRaw_ok⟩

end Sys2Proof.Config
end

