-- ==== Sys2Proof/Syntax.lean ====
section
/-! DEFINITION. The inputs of the block as syntax: one constructor of `Instr` per row of spec/opcode_table.json, and
the words the ports carry (30_encoding.md R88 to R91, R98). The block has no stored program (20_memory.md R66): an
instruction is one input taken by one step (00_scope.md R7). -/

namespace Sys2Proof

/-- `masterAddress` (00_scope.md R22). -/
inductive MasterAddress
  | secondary
  | primary
deriving DecidableEq, Repr

/-- An Address: the immutable record of 00_scope.md R22. -/
structure Address where
  masterAddress : MasterAddress
  burstMode : Bool
  deviceTypeCode : U16
  deviceID : U24
deriving DecidableEq, Repr

/-- The Address with every bit 0. -/
def Address.zero : Address := ⟨.secondary, false, 0, 0⟩

/-- The `REQ` bundle (10_state.md R43(b)). `data` holds the bytes presented at `data[0]`, `data[1]`, ...; only
`data[0..len-1]` is read (log 10). -/
structure ReqBundle where
  addr : Address
  cmd : Byte
  len : Byte
  data : List Byte
deriving DecidableEq, Repr

/-- The bundle with every bit 0: what stands on the port when an event needs none. -/
def ReqBundle.zero : ReqBundle := ⟨Address.zero, 0, 0, []⟩

/-- The operand wires of the function port (30_encoding.md R91; 20_memory.md R51): the byte and the mask, an
Address, a command, a length, and the operand buffer of up to 264 bytes. Each function reads its own (log 10). -/
structure FnOperands where
  b : Byte
  m : Byte
  addr : Address
  cmd : Byte
  len : Byte
  buf : List Byte
deriving DecidableEq, Repr

/-- The operand wires with every bit 0. -/
def FnOperands.zero : FnOperands := ⟨0, 0, Address.zero, 0, 0, []⟩

/-- One constructor per row of spec/opcode_table.json. `ign` is the operand byte of an event word that ignores it
(30_encoding.md R88): kept, so that no bit of a word is dropped. -/
inductive Instr
  /-- `REQ`, 0x01 (43_mac_controller.md R131). -/
  | req (caller : Byte) (bundle : ReqBundle)
  /-- `TXEN_OK`, 0x02 (R137). -/
  | txenOk (ign : Byte)
  /-- `TXEN_ERR`, 0x03 (R138). -/
  | txenErr (ign : Byte)
  /-- `WR_OK`, 0x04 (R142). -/
  | wrOk (ign : Byte)
  /-- `WR_ERR`, 0x05 (R141). -/
  | wrErr (ign : Byte)
  /-- `RX_BYTE`, 0x06, operand the received byte (R145). -/
  | rxByte (b : Byte)
  /-- `RX_TIMEOUT`, 0x07 (R146). -/
  | rxTimeout (ign : Byte)
  /-- `RX_ERR`, 0x08 (R147). -/
  | rxErr (ign : Byte)
  /-- `RESET_REQ`, 0x09 (70_reset_and_hazards.md R188). -/
  | resetReq (ign : Byte)
  /-- `BF_TEST`, function 0x10 (40_bitfield.md R100). -/
  | bfTest (b m : Byte)
  /-- `BF_SET`, function 0x11 (R101). -/
  | bfSet (b m : Byte)
  /-- `XOR_FOLD`, function 0x12 (41_frame_codec.md R104). -/
  | xorFold (s : List Byte)
  /-- `ENCODE`, function 0x13 (R109). -/
  | encodeFn (addr : Address) (cmd len : Byte) (data : List Byte)
  /-- `DECODE`, function 0x14 (R112). -/
  | decodeFn (s : List Byte)
  /-- `DIAG_MAP`, function 0x15 (42_diagnostic_mapper.md R124). -/
  | diagMap (d : List Byte)
  /-- `RETRY_STEP`, internal, `st` = 4 (43_mac_controller.md R155). -/
  | retryStep
  /-- `RESOLVE_STEP`, internal, `st` = 5 (R157). -/
  | resolveStep
  /-- `DELIM_STX_UNIQUE`, the wire byte 0x82 (30_encoding.md R71; log 11). -/
  | delimStxUnique
  /-- `CMD48_FRAME`, 17 wire bytes: delimiter, 5 address bytes, 0x30, 0x08, 8 data bytes, checksum (R68; log 11). -/
  | cmd48Frame (delimiter : Byte) (address data : List Byte) (checksum : Byte)
deriving DecidableEq, Repr

/-- The raw words of one input, as the port that carries it presents them. -/
inductive Raw
  /-- `EV`: an event word, with what stands on the `REQ` bundle (R88). -/
  | ev (evw : U16) (bundle : ReqBundle)
  /-- `FN`: a function code and the operand wires (R90). -/
  | fn (code : Byte) (ops : FnOperands)
  /-- The value of `st`, which selects an internal step (R98). -/
  | st (bits : BitVec 3)
  /-- Bytes on the receive wire, first to last (20_memory.md R50, R53). -/
  | wire (bytes : List Byte)
deriving DecidableEq, Repr

/-- One entry of the schedule of inputs (log 1). `internal` is the turn of the MAC's internal step, the line `(step)`
of an event script (30_encoding.md R99). -/
inductive Input
  | ev (evw : U16) (bundle : ReqBundle)
  | fn (code : Byte) (ops : FnOperands)
  | internal
  | wire (bytes : List Byte)
deriving DecidableEq, Repr

end Sys2Proof
end

