-- ==== Sys2Proof/WellFormed.lean ====
section
/-! DEFINITION. Which terms of `Instr` an input of the block can be (30_encoding.md R88 to R91, R68). -/

namespace Sys2Proof

/-- A bundle carries exactly the bytes `data[0..len-1]` that the block may read (10_state.md R43(b)). -/
def ReqBundle.wf (b : ReqBundle) : Bool := b.data.length == b.len.toNat

/-- The operand widths of R91 and the field lengths of R68. -/
def Instr.wf : Instr → Bool
  | .req _ b => b.wf
  | .txenOk _ => true
  | .txenErr _ => true
  | .wrOk _ => true
  | .wrErr _ => true
  | .rxByte _ => true
  | .rxTimeout _ => true
  | .rxErr _ => true
  | .resetReq _ => true
  | .bfTest _ _ => true
  | .bfSet _ _ => true
  | .xorFold s => decide (s.length ≤ Config.rxMax)
  | .encodeFn _ _ len data => data.length == len.toNat
  | .decodeFn s => decide (s.length ≤ Config.rxMax)
  | .diagMap d => d.length == 8
  | .retryStep => true
  | .resolveStep => true
  | .delimStxUnique => true
  | .cmd48Frame _ address data _ => address.length == 5 && data.length == 8

end Sys2Proof
end

