-- ==== Sys2Proof/Decode.lean ====
section
/-! DEFINITION. From the words on the ports to an instruction or a rejection by name, and back (30_encoding.md R88,
R89, R91, R96 to R98, R68, R71). -/

namespace Sys2Proof

/-- Why an input is no row of the opcode table. -/
inductive Reject
  /-- A reserved event code (R96). The MAC drops it. -/
  | reservedEvent (code : Byte)
  /-- A reserved function code (R97). A model refuses it. -/
  | reservedFunction (code : Byte)
  /-- `st` selects no internal step (R98). -/
  | noInternalStep (bits : BitVec 3)
  /-- Fewer data bytes presented than `len` says: no `REQ` bundle and no operand buffer does that (log 10). -/
  | shortData
  /-- An operand buffer of a length the function does not take (R91; 20_memory.md R51). -/
  | operandLength
  /-- Wire bytes that are neither of the two wire rows; the PHY delivers them byte by byte all the same. -/
  | otherWire (bytes : List Byte)
deriving DecidableEq, Repr

/-- One row of spec/opcode_table.json: the bits under `mask` are `value`. A wire frame's row is on its bytes 6, 7. -/
structure Row where
  mnemonic : String
  nbits : Nat
  mask : Nat
  value : Nat
deriving DecidableEq, Repr

/-- The table's rows, in its order. CMD48_FRAME: byte 6 is bits 55:48 and byte 7 is bits 63:56. -/
def opcodeTable : List Row :=
  [ ⟨"REQ", 16, 0xFF00, 0x0100⟩,
    ⟨"TXEN_OK", 16, 0xFF00, 0x0200⟩,
    ⟨"TXEN_ERR", 16, 0xFF00, 0x0300⟩,
    ⟨"WR_OK", 16, 0xFF00, 0x0400⟩,
    ⟨"WR_ERR", 16, 0xFF00, 0x0500⟩,
    ⟨"RX_BYTE", 16, 0xFF00, 0x0600⟩,
    ⟨"RX_TIMEOUT", 16, 0xFF00, 0x0700⟩,
    ⟨"RX_ERR", 16, 0xFF00, 0x0800⟩,
    ⟨"RESET_REQ", 16, 0xFF00, 0x0900⟩ ] ++
  [ ⟨"BF_TEST", 8, 0xFF, 0x10⟩,
    ⟨"BF_SET", 8, 0xFF, 0x11⟩,
    ⟨"XOR_FOLD", 8, 0xFF, 0x12⟩,
    ⟨"ENCODE", 8, 0xFF, 0x13⟩,
    ⟨"DECODE", 8, 0xFF, 0x14⟩,
    ⟨"DIAG_MAP", 8, 0xFF, 0x15⟩ ] ++
  [ ⟨"RETRY_STEP", 3, 0b111, 0b100⟩,
    ⟨"RESOLVE_STEP", 3, 0b111, 0b101⟩,
    ⟨"DELIM_STX_UNIQUE", 8, 0xFF, 0x82⟩,
    ⟨"CMD48_FRAME", 136, 0xFFFF000000000000, 0x0830000000000000⟩ ]

/-- `EVW[15:8]` (R88). -/
def evCode (evw : U16) : Byte := evw.extractLsb' 8 8

/-- `EVW[7:0]` (R88). -/
def evOperand (evw : U16) : Byte := evw.extractLsb' 0 8

/-- The event word with a code and an operand (R88). -/
def evWord (code operand : Byte) : U16 := code ++ operand

/-- Read `data[0..len-1]`: the first `len` of the bytes presented (10_state.md R43(b)). -/
def readData (len : Byte) (data : List Byte) : Except Reject (List Byte) :=
  if data.length < len.toNat then .error .shortData else .ok (data.take len.toNat)

/-- An operand buffer that holds a byte sequence of 0..264 bytes (R91). -/
def readSequence (buf : List Byte) : Except Reject (List Byte) :=
  if buf.length ≤ Config.rxMax then .ok buf else .error .operandLength

/-- `REQ`: the caller id is the operand, the fields come on the bundle (R88, R131). -/
def decodeReq (caller : Byte) (b : ReqBundle) : Except Reject Instr :=
  match readData b.len b.data with
  | .ok data => .ok (.req caller ⟨b.addr, b.cmd, b.len, data⟩)
  | .error e => .error e

/-- The event codes of R89; every other code is reserved (R96). -/
def decodeEvent (evw : U16) (b : ReqBundle) : Except Reject Instr :=
  match (evCode evw).toNat with
  | 0x01 => decodeReq (evOperand evw) b
  | 0x02 => .ok (.txenOk (evOperand evw))
  | 0x03 => .ok (.txenErr (evOperand evw))
  | 0x04 => .ok (.wrOk (evOperand evw))
  | 0x05 => .ok (.wrErr (evOperand evw))
  | 0x06 => .ok (.rxByte (evOperand evw))
  | 0x07 => .ok (.rxTimeout (evOperand evw))
  | 0x08 => .ok (.rxErr (evOperand evw))
  | 0x09 => .ok (.resetReq (evOperand evw))
  | _ => .error (.reservedEvent (evCode evw))

/-- The function codes of R91; every other code is reserved (R97). -/
def decodeFunction (code : Byte) (ops : FnOperands) : Except Reject Instr :=
  match code.toNat with
  | 0x10 => .ok (.bfTest ops.b ops.m)
  | 0x11 => .ok (.bfSet ops.b ops.m)
  | 0x12 => (readSequence ops.buf).map .xorFold
  | 0x13 => (readData ops.len ops.buf).map (.encodeFn ops.addr ops.cmd ops.len)
  | 0x14 => (readSequence ops.buf).map .decodeFn
  | 0x15 => if ops.buf.length = 8 then .ok (.diagMap ops.buf) else .error .operandLength
  | _ => .error (.reservedFunction code)

/-- `st` selects the internal steps (R98). -/
def decodeInternal (bits : BitVec 3) : Except Reject Instr :=
  match bits.toNat with
  | 0b100 => .ok .retryStep
  | 0b101 => .ok .resolveStep
  | _ => .error (.noInternalStep bits)

/-- The two wire rows: the delimiter byte of R71, and the 17-byte frame of R68, told by its bytes 6 and 7. -/
def decodeWire (bytes : List Byte) : Except Reject Instr :=
  if bytes = [Config.delimStxUnique] then .ok .delimStxUnique
  else
    match bytes with
    | [dl, a0, a1, a2, a3, a4, c, n, d0, d1, d2, d3, d4, d5, d6, d7, ck] =>
      if c = Config.cmd48 ∧ n = Config.bc48 then
        .ok (.cmd48Frame dl [a0, a1, a2, a3, a4] [d0, d1, d2, d3, d4, d5, d6, d7] ck)
      else .error (.otherWire bytes)
    | _ => .error (.otherWire bytes)

/-- The decoder, total on whatever the ports carry. -/
def decode : Raw → Except Reject Instr
  | .ev evw b => decodeEvent evw b
  | .fn code ops => decodeFunction code ops
  | .st bits => decodeInternal bits
  | .wire bytes => decodeWire bytes

/-- The bytes of a wire frame in index order (R68; 20_memory.md R53). -/
def wireFrameBytes (delimiter : Byte) (address data : List Byte) (checksum : Byte) : List Byte :=
  [delimiter] ++ address ++ [Config.cmd48, Config.bc48] ++ data ++ [checksum]

/-- An event that carries no bundle, as the port presents it. -/
def plainEvent (code operand : Byte) : Raw := .ev (evWord code operand) ReqBundle.zero

/-- The words of an instruction, from R89, R91, R98, R71 and R68. -/
def encode : Instr → Raw
  | .req caller b => .ev (evWord 0x01#8 caller) b
  | .txenOk x => plainEvent 0x02#8 x
  | .txenErr x => plainEvent 0x03#8 x
  | .wrOk x => plainEvent 0x04#8 x
  | .wrErr x => plainEvent 0x05#8 x
  | .rxByte b => plainEvent 0x06#8 b
  | .rxTimeout x => plainEvent 0x07#8 x
  | .rxErr x => plainEvent 0x08#8 x
  | .resetReq x => plainEvent 0x09#8 x
  | .bfTest b m => .fn 0x10#8 { FnOperands.zero with b := b, m := m }
  | .bfSet b m => .fn 0x11#8 { FnOperands.zero with b := b, m := m }
  | .xorFold s => .fn 0x12#8 { FnOperands.zero with buf := s }
  | .encodeFn a c l d => .fn 0x13#8 { FnOperands.zero with addr := a, cmd := c, len := l, buf := d }
  | .decodeFn s => .fn 0x14#8 { FnOperands.zero with buf := s }
  | .diagMap d => .fn 0x15#8 { FnOperands.zero with buf := d }
  | .retryStep => .st 0b100#3
  | .resolveStep => .st 0b101#3
  | .delimStxUnique => .wire [Config.delimStxUnique]
  | .cmd48Frame dl a d ck => .wire (wireFrameBytes dl a d ck)

/-- The n bytes of a number, byte 0 the least significant: how opcode_table.json numbers a row's bits. -/
def bytesOfNat (n w : Nat) : List Byte :=
  (List.range n).map fun i => BitVec.ofNat 8 (w / 2 ^ (8 * i))

/-- Operand wires of zeros; `DIAG_MAP` always has its 8 data bytes. -/
def zeroOperands (code : Nat) : FnOperands :=
  if code = 0x15 then { FnOperands.zero with buf := List.replicate 8 0#8 } else FnOperands.zero

/-- The port that carries a row of `nbits` bits, and the words on it (log 19). A row of 16 bits is an event word. A
row of 8 or fewer is a value of `st` below 8 (no function has such a code, R91), the delimiter byte 0x82 (no
function's code either) or a function code. A longer row is a wire frame of 17 bytes. -/
def rawOfTableWord (nbits w : Nat) : Raw :=
  if nbits ≤ 8 then
    let c := w % 256
    if c < 8 then .st (BitVec.ofNat 3 c)
    else if c = 0x82 then .wire [Config.delimStxUnique]
    else .fn (BitVec.ofNat 8 c) (zeroOperands c)
  else if nbits ≤ 16 then .ev (BitVec.ofNat 16 w) ReqBundle.zero
  else .wire (bytesOfNat 17 w)

/-- The instruction the decoder reads from the words of a table row. -/
def decodeTableWord (nbits w : Nat) : Option Instr :=
  (decode (rawOfTableWord nbits w)).toOption

end Sys2Proof
end

