-- ==== Sys2Proof/Machine/State.lean ====
section
/-! DEFINITION. The state of the block (10_state.md), the records it puts on its ports (30_encoding.md R92 to R95,
41_frame_codec.md R113, 42_diagnostic_mapper.md R124), the reasons a step can stop, and power-on reset
(70_reset_and_hazards.md R186). Plain data throughout. -/

namespace Sys2Proof.Machine

/-- A byte buffer: (index, byte) cells with strictly rising indices. An index not listed holds no value (10_state.md
R27, R29; log 6). -/
abbrev Memory := List Host.Cell

/-- The two byte buffers that are state (20_memory.md R50). -/
inductive Buffer
  | txf
  | rxb
deriving DecidableEq, Repr

/-- `st`, all eight values of its 3 bits (R24); 6 and 7 are never written (R25). -/
inductive MacState
  | idle
  | awaitEn
  | tx
  | awaitRsp
  | retry
  | resolved
  | unused6
  | unused7
deriving DecidableEq, Repr

/-- `last_cause` (R33; 30_encoding.md R94). Its codes 5..7 are never produced. -/
inductive Cause
  | none
  | timeout
  | malformed
  | checksum
  | physErr
deriving DecidableEq, Repr

/-- The reasons of a `COMM_FAILURE` (30_encoding.md R93). -/
inductive Reason
  | retriesExhausted
  | reset
deriving DecidableEq, Repr

/-- What DECODE can raise (41_frame_codec.md R112). -/
inductive FrameError
  | malformedFrame
  | checksumMismatch
deriving DecidableEq, Repr

/-- What ENCODE can raise (41_frame_codec.md R109). -/
inductive EncodeError
  | invalidPayloadLength
deriving DecidableEq, Repr

/-- The decoded-frame record `DF` (41_frame_codec.md R113). `DF.response` is a view of `data` (R113). -/
structure DecodedFrame where
  delimiter : Byte
  address : Address
  command : Byte
  byteCount : Byte
  data : List Byte
deriving DecidableEq, Repr

/-- The diagnostics record `DG` (42_diagnostic_mapper.md R124): the six raw status bytes, and one named flag per
entry of `FLAG_MAP`, in its order. -/
structure Diagnostics where
  status : List Byte
  flags : List (Config.FlagName × Bool)
deriving DecidableEq, Repr

/-- A result record on `HOST_OUT` (30_encoding.md R92). -/
inductive TransactionResult
  | success (df : DecodedFrame) (dg : Diagnostics) (retryCnt : Byte) (lastCause : Cause)
  | commFailure (reason : Reason) (retryCnt : Byte) (lastCause : Cause)
  | busy
  | invalidPayloadLength
deriving DecidableEq, Repr

/-- The five capabilities of the PHY (43_mac_controller.md R130). The MAC calls the first three only. -/
inductive PhyCall
  | enableTransmit
  | writeByte (b : Byte)
  | readByte (deadline : Nat)
  | carrierPresent
  | reset
deriving DecidableEq, Repr

/-- An answer of the function port (30_encoding.md R91, R95). -/
inductive FnAnswer
  | bit (b : Bool)
  | byte (b : Byte)
  | frame (f : List Byte)
  | noFrame (e : EncodeError)
  | decoded (df : DecodedFrame)
  | notDecoded (e : FrameError)
  | diagnostics (dg : Diagnostics)
deriving DecidableEq, Repr

/-- Why the model stops. Every one is a state no run from reset reaches (10_state.md R40, R41; 20_memory.md R52). -/
inductive Fault
  /-- A read of a buffer byte that holds no value (10_state.md R27, R29; 93_implementation_defined.md: "Reading them
  is a `fault` of the model"). Raised by `issueCall` (TXEN_OK, WR_OK) and by RX_BYTE on a complete frame. Safe. -/
  | unwritten (buf : Buffer) (index : Nat)
  /-- An index outside the buffer (20_memory.md R52: "A model may treat an out-of-range index as a fault"). Raised by
  `issueCall` (TXEN_OK, WR_OK) and by RX_BYTE. Safe. -/
  | outOfRange (buf : Buffer) (index : Nat)
  /-- A result is due and there is no owner to give it to, against R40. Raised by RESET_REQ and RESOLVE_STEP. Safe. -/
  | ownerMissing
  /-- `st` is `RESOLVED` and `res` is empty, against R41(a). Raised by RESOLVE_STEP. Safe. -/
  | resultMissing
deriving DecidableEq, Repr

/-- Why an input has no meaning in the model. -/
inductive Refusal
  /-- An instruction without a meaning yet. Raised by a refused arm of `exec` only. Safe. -/
  | notModelled (mnemonic : String)
  /-- `st` is 6 or 7 (10_state.md R25: "It should refuse such a state as unreachable"). Raised by every meaning and by
  `step`. Safe. -/
  | unusedState
  /-- A reserved function code (30_encoding.md R97: "A model refuses it"). Raised by `step`. Safe. -/
  | reservedFunction (code : Byte)
  /-- An internal step where `st` does not select it (R98). Raised by `step`, RETRY_STEP and RESOLVE_STEP. Safe. -/
  | internalNotSelected
  /-- Operands no port can carry: a buffer length R91 does not allow, or data bytes missing under `len` (log 10).
  Raised by `step` and by the function meanings. Safe. -/
  | operands
deriving DecidableEq, Repr

/-- The state: the named fields of 10_state.md R24 to R35; the configuration, constant (R36); and what stands on the
ports (R43), which is the model's own (logs 1, 2, 13). -/
structure State where
  /-- `st` (R24). -/
  st : MacState
  /-- `retry_cnt` (R26). -/
  retryCnt : Byte
  /-- `txf[0..16]` (R27). -/
  txf : Memory
  /-- `tx_idx` (R28). -/
  txIdx : BitVec 5
  /-- `rxb[0..263]` (R29). -/
  rxb : Memory
  /-- `rx_cnt` (R30). -/
  rxCnt : U9
  /-- `rx_exp` (R31). -/
  rxExp : U9
  /-- `last_cause` (R33). -/
  lastCause : Cause
  /-- `res` (R34). -/
  res : Option TransactionResult
  /-- `owner` (R35). -/
  owner : Option Byte
  /-- The parameters of this instance (R36; 00_scope.md R9). No rule writes them (log 5). -/
  cfg : Config.Params
  /-- The model's own: the inputs not yet taken, first to last (log 1). -/
  inbox : List Input
  /-- The model's own: what `HOST_OUT` has carried, oldest first (log 2). -/
  hostOut : List (Byte × TransactionResult)
  /-- The model's own: the calls issued on `PHY_CALL`, oldest first (log 2). -/
  phyOut : List PhyCall
  /-- The model's own: the answers of `FN`, oldest first (log 2). -/
  fnOut : List FnAnswer
  /-- The PHY's `carrierPresent` line, an input no rule reads (R43; log 13). -/
  carrier : Bool
deriving DecidableEq, Repr

/-- The block right after power-on reset, for one instance (10_state.md R44; 70_reset_and_hazards.md R186, R187). The
port fields are empty: DESIGN CHOICE (log 16). -/
def State.resetOf (p : Config.Params) : State where
  st := .idle
  retryCnt := 0
  txf := []
  txIdx := 0
  rxb := []
  rxCnt := 0
  rxExp := 0
  lastCause := .none
  res := Option.none
  owner := Option.none
  cfg := p
  inbox := []
  hostOut := []
  phyOut := []
  fnOut := []
  carrier := false

/-- The block right after power-on reset, with the defaults of 00_scope.md R9 (log 5). -/
def State.reset : State := State.resetOf Config.defaults

/-- How one step ends. -/
abbrev Out := Host.Outcome State Fault Refusal

end Sys2Proof.Machine
end

