-- ==== Sys2Proof/Machine/Flags.lean ====
section
/-! DEFINITION. The block has no condition codes (10_state.md R37). What software reads as bits is computed here: the
codes of the enumerations, `busy`, the `STATUS` view (R38), the result word (30_encoding.md R92) and the status code
of a function-port answer (R95). -/

namespace Sys2Proof.Machine

/-- The encodings of `st` (10_state.md R24). -/
def MacState.code : MacState → BitVec 3
  | .idle => 0#3
  | .awaitEn => 1#3
  | .tx => 2#3
  | .awaitRsp => 3#3
  | .retry => 4#3
  | .resolved => 5#3
  | .unused6 => 6#3
  | .unused7 => 7#3

/-- The value of `st` with a given encoding. -/
def MacState.ofCode (c : BitVec 3) : MacState :=
  match c.toNat with
  | 0 => .idle
  | 1 => .awaitEn
  | 2 => .tx
  | 3 => .awaitRsp
  | 4 => .retry
  | 5 => .resolved
  | 6 => .unused6
  | _ => .unused7

/-- `st` is a value no rule writes (R25). -/
def MacState.unused : MacState → Bool
  | .idle => false
  | .awaitEn => false
  | .tx => false
  | .awaitRsp => false
  | .retry => false
  | .resolved => false
  | .unused6 => true
  | .unused7 => true

/-- `last_cause` codes (30_encoding.md R94). -/
def Cause.code : Cause → BitVec 3
  | .none => 0#3
  | .timeout => 1#3
  | .malformed => 2#3
  | .checksum => 3#3
  | .physErr => 4#3

/-- Reason codes (R93). -/
def Reason.code : Reason → BitVec 1
  | .retriesExhausted => 0#1
  | .reset => 1#1

/-- Result codes (R92). -/
def TransactionResult.code : TransactionResult → BitVec 2
  | .success _ _ _ _ => 0#2
  | .commFailure _ _ _ => 1#2
  | .busy => 2#2
  | .invalidPayloadLength => 3#2

/-- `RES[2]`: the reason, 0 unless the code is `COMM_FAILURE` (R92). -/
def TransactionResult.reasonBit : TransactionResult → BitVec 1
  | .success _ _ _ _ => 0#1
  | .commFailure r _ _ => r.code
  | .busy => 0#1
  | .invalidPayloadLength => 0#1

/-- `RES[5:3]`: `last_cause`, 0 for `BUSY` and `INVALID_PAYLOAD_LENGTH` (R92). -/
def TransactionResult.causeBits : TransactionResult → BitVec 3
  | .success _ _ _ c => c.code
  | .commFailure _ _ c => c.code
  | .busy => 0#3
  | .invalidPayloadLength => 0#3

/-- `RES[6]`: `diag_valid`, 1 exactly for `SUCCESS` (R92). -/
def TransactionResult.diagValid : TransactionResult → BitVec 1
  | .success _ _ _ _ => 1#1
  | .commFailure _ _ _ => 0#1
  | .busy => 0#1
  | .invalidPayloadLength => 0#1

/-- `RES[15:8]`: `retry_cnt`, 0 for `BUSY` and `INVALID_PAYLOAD_LENGTH` (R92). -/
def TransactionResult.retryBits : TransactionResult → Byte
  | .success _ _ n _ => n
  | .commFailure _ n _ => n
  | .busy => 0#8
  | .invalidPayloadLength => 0#8

/-- The 16-bit result word `RES` (R92). `RES[7]` reads 0. -/
def resultWord (r : TransactionResult) : BitVec 16 :=
  r.retryBits ++ 0#1 ++ r.diagValid ++ r.causeBits ++ r.reasonBit ++ r.code

/-- The diagnostics record of a result, absent unless `SUCCESS` (R92; 42_diagnostic_mapper.md R127). -/
def TransactionResult.diagnostics? : TransactionResult → Option Diagnostics
  | .success _ dg _ _ => some dg
  | .commFailure _ _ _ => none
  | .busy => none
  | .invalidPayloadLength => none

/-- `busy = (st ≠ IDLE)` (10_state.md R37). -/
def busy (s : State) : Bool := s.st != .idle

/-- One bit of a status word. -/
def bit (b : Bool) : BitVec 1 := BitVec.ofBool b

/-- The read-only `STATUS` view (10_state.md R38): 31:30 read as 0, then `rx_cnt`, `tx_idx`, `retry_cnt`,
`res_pending`, `last_cause`, `busy`, `st`. -/
def statusWord (s : State) : BitVec 32 :=
  0#2 ++ s.rxCnt ++ s.txIdx ++ s.retryCnt ++ bit s.res.isSome ++ s.lastCause.code ++ bit (busy s) ++ s.st.code

/-- The status code of a function-port answer (30_encoding.md R95). -/
def FnAnswer.status : FnAnswer → Byte
  | .bit _ => 0#8
  | .byte _ => 0#8
  | .frame _ => 0#8
  | .noFrame .invalidPayloadLength => 1#8
  | .decoded _ => 0#8
  | .notDecoded .malformedFrame => 1#8
  | .notDecoded .checksumMismatch => 2#8
  | .diagnostics _ => 0#8

end Sys2Proof.Machine
end

