-- ==== Sys2Proof/Machine/Operands.lean ====
section
/-! DEFINITION. The operand fields: the Address and its five wire bytes (30_encoding.md R69, R70, R79;
41_frame_codec.md R110, R111), the fields of a delimiter byte (R71, R72), and the fields of a frame (R67). -/

namespace Sys2Proof.Machine

/-- The bit of `masterAddress` on the wire: primary = 1, secondary = 0 (30_encoding.md R70). -/
def masterBit : MasterAddress → BitVec 1
  | .primary => 1#1
  | .secondary => 0#1

/-- `masterAddress` from its bit (R79). -/
def masterOfBit (b : BitVec 1) : MasterAddress :=
  if b = 1#1 then .primary else .secondary

/-- `SER_ADDR`, byte A0: `masterAddress`, `burstMode`, `deviceTypeCode[13:8]`, joined by OR (41_frame_codec.md R110). -/
def serAddr0 (a : Address) : Byte :=
  ((masterBit a.masterAddress).setWidth 8 <<< 7) ||| ((BitVec.ofBool a.burstMode).setWidth 8 <<< 6) |||
    (a.deviceTypeCode.extractLsb' 8 6).setWidth 8

/-- `SER_ADDR(addr)`: the bytes A0..A4 (R110). `deviceTypeCode[15:14]` is read by nothing. -/
def serAddr (a : Address) : List Byte :=
  [ serAddr0 a,
    a.deviceTypeCode.extractLsb' 0 8,
    a.deviceID.extractLsb' 16 8,
    a.deviceID.extractLsb' 8 8,
    a.deviceID.extractLsb' 0 8 ]

/-- `PARSE_ADDR(A0..A4)` (R111; 30_encoding.md R79). Bits 15:14 of `deviceTypeCode` read as 0. -/
def parseAddr (a0 a1 a2 a3 a4 : Byte) : Address where
  masterAddress := masterOfBit (a0.extractLsb' 7 1)
  burstMode := a0.extractLsb' 6 1 == 1#1
  deviceTypeCode := (a0.extractLsb' 0 6 ++ a1).setWidth 16
  deviceID := a2 ++ a3 ++ a4

/-- A valid Address: `deviceTypeCode` below 0x4000 (41_frame_codec.md R107). -/
def validAddress (a : Address) : Bool := decide (a.deviceTypeCode.toNat < 0x4000)

/-- Delimiter bit 7, `addressType`: 1 = unique 5-byte (30_encoding.md R71). -/
def delimAddressType (d : Byte) : BitVec 1 := d.extractLsb' 7 1

/-- Delimiter bits 6:5, the expansion-byte count (R71). -/
def delimExpansion (d : Byte) : BitVec 2 := d.extractLsb' 5 2

/-- Delimiter bits 4:3, the physical-layer type: 0 = asynchronous FSK (R71). -/
def delimPhysType (d : Byte) : BitVec 2 := d.extractLsb' 3 2

/-- Delimiter bits 2:0, `frameType` (R71). -/
def delimFrameType (d : Byte) : BitVec 3 := d.extractLsb' 0 3

/-- `STX` (R72). -/
def frameTypeStx : BitVec 3 := 0b010#3

/-- `ACK` (R72). No rule uses it. -/
def frameTypeAck : BitVec 3 := 0b110#3

/-- `BACK` (R72). No rule uses it. -/
def frameTypeBack : BitVec 3 := 0b001#3

/-- `DEFINED_BC(cmd)`: the byte count of a recognized command (41_frame_codec.md R108). -/
def definedBC (cmd : Byte) : Option Byte :=
  if cmd = Config.cmd48 then some Config.bc48 else none

/-- The length of the frame that a byteCount byte announces: 9 + byteCount, in 9 bits (30_encoding.md R78). -/
def frameLength (byteCount : Byte) : U9 := 9#9 + byteCount.setWidth 9

/-- `DF.response`, the six status bytes `data[1..6]` (41_frame_codec.md R113). -/
def DecodedFrame.response (df : DecodedFrame) : List Byte := (df.data.drop 1).take 6

end Sys2Proof.Machine
end

