-- ==== Sys2Proof/Machine/Ops.lean ====
section
/-! DEFINITION. The shared operations: the byte buffers, the ports, the outstanding physical-layer call, and the
entry into and return from error handling (60_exceptions.md R170, R172). Every meaning is built from these. -/

namespace Sys2Proof.Machine

/-- The byte at an index, if it holds a value. -/
def Memory.read : Memory → Nat → Option Byte
  | [], _ => none
  | (k, v) :: m, i => if k = i then some v else Memory.read m i

/-- Write one byte, keeping the cells in rising order. -/
def Memory.write : Memory → Nat → Byte → Memory
  | [], i, b => [(i, b)]
  | (k, v) :: m, i, b =>
    if i < k then (i, b) :: (k, v) :: m
    else if i = k then (i, b) :: m
    else (k, v) :: Memory.write m i b

/-- Write a byte sequence from an index on. -/
def Memory.writeBytes (m : Memory) (i : Nat) : List Byte → Memory
  | [] => m
  | b :: bs => (m.write i b).writeBytes (i + 1) bs

/-- The canonical form: indices strictly rising, all of them at least `lo` and below `size`. -/
def Memory.wfFrom (size : Nat) : Nat → Memory → Bool
  | _, [] => true
  | lo, (k, _) :: m => decide (lo ≤ k) && decide (k < size) && Memory.wfFrom size (k + 1) m

/-- The bytes of a buffer (10_state.md R27, R29). -/
def Buffer.size : Buffer → Nat
  | .txf => Config.frameLen48
  | .rxb => Config.rxMax

/-- A buffer's memory is in canonical form and inside its bounds. No index reads as a value unless it is listed, so
no entry can equal what an unlisted index reads as. -/
def Memory.wf (buf : Buffer) (m : Memory) : Bool := Memory.wfFrom buf.size 0 m

/-- `MemRead(b, i, 1)` (20_memory.md R52). -/
def readBuf (buf : Buffer) (m : Memory) (i : Nat) : Except Fault Byte :=
  if i < buf.size then
    match m.read i with
    | some b => .ok b
    | none => .error (.unwritten buf i)
  else .error (.outOfRange buf i)

/-- `MemWrite(b, i, 1, v)` (20_memory.md R52). -/
def writeBuf (buf : Buffer) (m : Memory) (i : Nat) (b : Byte) : Except Fault Memory :=
  if i < buf.size then .ok (m.write i b) else .error (.outOfRange buf i)

/-- The n bytes from index i on, in index order. -/
def readBytes (buf : Buffer) (m : Memory) (i : Nat) : Nat → Except Fault (List Byte)
  | 0 => .ok []
  | n + 1 =>
    match readBuf buf m i with
    | .error e => .error e
    | .ok b =>
      match readBytes buf m (i + 1) n with
      | .error e => .error e
      | .ok bs => .ok (b :: bs)

/-- A state whose `st` is 6 or 7 takes no step (10_state.md R25). -/
def inLegalState (s : State) (k : Out) : Out :=
  if s.st.unused then .refused .unusedState else k

/-- A PHY event acts where it answers the outstanding call, which is in one value of `st`; anywhere else it is a
stray event and the MAC drops it (43_mac_controller.md R161). -/
def onAnswer (expected : MacState) (s : State) (k : Out) : Out :=
  inLegalState s (if s.st = expected then k else .next s)

/-- `emit HOST(c, r)` (00_scope.md R16). -/
def emitHost (c : Byte) (r : TransactionResult) (s : State) : State :=
  { s with hostOut := s.hostOut ++ [(c, r)] }

/-- A function-port answer: it changes no state of the block (30_encoding.md R90). -/
def answerFn (a : FnAnswer) (s : State) : Out :=
  inLegalState s (.next { s with fnOut := s.fnOut ++ [a] })

/-- `PHY_CALL(S)`: the outstanding call, a function of the state (10_state.md R39; 43_mac_controller.md R159, R144). -/
def phyCall (s : State) : Except Fault (Option PhyCall) :=
  match s.st with
  | .awaitEn => .ok (some .enableTransmit)
  | .tx =>
    match readBuf .txf s.txf s.txIdx.toNat with
    | .ok b => .ok (some (.writeByte b))
    | .error e => .error e
  | .awaitRsp =>
    .ok (some (.readByte (if s.rxCnt = 0 then s.cfg.val.deadlineFirst else s.cfg.val.deadlineNext)))
  | .idle => .ok none
  | .retry => .ok none
  | .resolved => .ok none
  | .unused6 => .ok none
  | .unused7 => .ok none

/-- The step's end: the state it reached issues its call on `PHY_CALL`, if it has one (R159). -/
def issueCall (s : State) : Out :=
  match phyCall s with
  | .error e => .fault e
  | .ok none => .next s
  | .ok (some c) => .next { s with phyOut := s.phyOut ++ [c] }

/-- `CLEAR_ATTEMPT` (43_mac_controller.md). -/
def clearAttempt (s : State) : State := { s with txIdx := 0, rxCnt := 0, rxExp := 0 }

/-- `FAIL_ATTEMPT(cause)`: entry into error handling. It writes `last_cause` and `st`, and nothing else
(43_mac_controller.md; 60_exceptions.md R170). No call is outstanding in `RETRY` (R152). -/
def failAttempt (cause : Cause) (s : State) : Out :=
  issueCall { s with lastCause := cause, st := .retry }

/-- Return from error handling: `AWAIT_EN` again with the same frame, or the end of the transaction (60_exceptions.md
R172; 43_mac_controller.md R155). The comparison uses the incremented count. -/
def returnFromError (s : State) : Out :=
  let s1 := { s with retryCnt := s.retryCnt + 1 }
  if s1.retryCnt.toNat ≤ s.cfg.val.maxRetries then
    issueCall { clearAttempt s1 with st := .awaitEn }
  else
    issueCall { s1 with res := some (.commFailure .retriesExhausted s1.retryCnt s.lastCause), st := .resolved }

/-- Deliver bytes that arrive on the receive wire: one `RX_BYTE` event per byte, in order, ahead of what else is
scheduled (30_encoding.md R99, `RX [b0 ... bk]`; 20_memory.md R58(c); log 11). -/
def deliverWire (bytes : List Byte) (s : State) : Out :=
  inLegalState s
    (.next { s with inbox := bytes.map (fun b => Input.ev (evWord 0x06#8 b) ReqBundle.zero) ++ s.inbox })

end Sys2Proof.Machine
end

