-- ==== Sys2Proof/Machine/Codec.lean ====
section
/-! DEFINITION. The Frame Codec (41_frame_codec.md): XOR_FOLD, ENCODE and DECODE, as total functions of their
operands (R119, R121) and as function-port calls. -/

namespace Sys2Proof.Machine

/-- `XOR_FOLD(s)` (R104): 0x00 for the empty sequence. -/
def xorFold (s : List Byte) : Byte := s.foldl (fun acc b => acc ^^^ b) 0#8

/-- The frame's bytes before the checksum, in wire order (R109; 30_encoding.md R67, R68). -/
def frameBody (addr : Address) (cmd len : Byte) (data : List Byte) : List Byte :=
  [Config.delimStxUnique] ++ serAddr addr ++ [cmd, len] ++ data

/-- `ENCODE(addr, cmd, len, data)` (R109). Data of another length than 8 "does not match the command's defined size"
and takes the same error (log 17). -/
def encodeFrame (addr : Address) (cmd len : Byte) (data : List Byte) : Except EncodeError (List Byte) :=
  if definedBC cmd = some len ∧ data.length = 8 then
    .ok (frameBody addr cmd len data ++ [xorFold (frameBody addr cmd len data)])
  else .error .invalidPayloadLength

/-- `DF(s)`, the decoded-frame record of a frame that passed the checks (R113). -/
def decodedFrame (s : List Byte) : DecodedFrame where
  delimiter := s.getD 0 0#8
  address := parseAddr (s.getD 1 0#8) (s.getD 2 0#8) (s.getD 3 0#8) (s.getD 4 0#8) (s.getD 5 0#8)
  command := s.getD 6 0#8
  byteCount := s.getD 7 0#8
  data := (s.drop 8).take 8

/-- `DECODE(s)`, the checks in the order of R112. The delimiter and the address are not checked (R114). -/
def decodeFrame (s : List Byte) : Except FrameError DecodedFrame :=
  if s.length < 9 then .error .malformedFrame
  else if definedBC (s.getD 6 0#8) = none then .error .malformedFrame
  else if definedBC (s.getD 6 0#8) ≠ some (s.getD 7 0#8) then .error .malformedFrame
  else if s.length ≠ 9 + (s.getD 7 0#8).toNat then .error .malformedFrame
  else if xorFold (s.take (s.length - 1)) ≠ s.getD (s.length - 1) 0#8 then .error .checksumMismatch
  else .ok (decodedFrame s)

/-- XOR_FOLD on the function port: 0..264 bytes (30_encoding.md R91). -/
def execXorFold (bytes : List Byte) (s : State) : Out :=
  if bytes.length ≤ Config.rxMax then answerFn (.byte (xorFold bytes)) s else .refused .operands

/-- ENCODE on the function port (30_encoding.md R91, R95). -/
def execEncode (addr : Address) (cmd len : Byte) (data : List Byte) (s : State) : Out :=
  match encodeFrame addr cmd len data with
  | .ok f => answerFn (.frame f) s
  | .error e => answerFn (.noFrame e) s

/-- DECODE on the function port: 0..264 bytes (30_encoding.md R91, R95). -/
def execDecode (bytes : List Byte) (s : State) : Out :=
  if bytes.length ≤ Config.rxMax then
    match decodeFrame bytes with
    | .ok df => answerFn (.decoded df) s
    | .error e => answerFn (.notDecoded e) s
  else .refused .operands

end Sys2Proof.Machine
end

