-- ==== Sys2Proof/Machine/BitField.lean ====
section
/-! DEFINITION. The BitField unit (40_bitfield.md): BF_TEST and BF_SET. -/

namespace Sys2Proof.Machine

/-- `BF_TEST(b, m)`: is any masked bit set (R100). -/
def bfTest (b m : Byte) : Bool := (b &&& m) != 0#8

/-- `BF_SET(b, m)`: set the masked bits (R101). -/
def bfSet (b m : Byte) : Byte := b ||| m

/-- BF_TEST on the function port (30_encoding.md R91). -/
def execBfTest (b m : Byte) (s : State) : Out := answerFn (.bit (bfTest b m)) s

/-- BF_SET on the function port (30_encoding.md R91). -/
def execBfSet (b m : Byte) (s : State) : Out := answerFn (.byte (bfSet b m)) s

end Sys2Proof.Machine
end

