-- ==== Sys2Proof/Machine/Diag.lean ====
section
/-! DEFINITION. The Diagnostic field mapper (42_diagnostic_mapper.md). -/

namespace Sys2Proof.Machine

/-- `DIAG_MAP(d)` (R124): the six raw status bytes d[1..6], and for each entry of `FLAG_MAP` whether its bit is set.
d[0] and d[7] are read by nothing. -/
def diagMap (flagMap : List Config.FlagEntry) (d : List Byte) : Diagnostics where
  status := (d.drop 1).take 6
  flags := flagMap.map fun e => (e.name, bfTest (d.getD e.byte 0#8) e.mask)

/-- `DG.flag[name]`: absent when the map does not name it (R124). -/
def Diagnostics.flag (dg : Diagnostics) (name : Config.FlagName) : Option Bool :=
  (dg.flags.find? fun e => e.1 == name).map fun e => e.2

/-- DIAG_MAP on the function port: exactly 8 data bytes (30_encoding.md R91). -/
def execDiagMap (d : List Byte) (s : State) : Out :=
  if d.length = 8 then answerFn (.diagnostics (diagMap s.cfg.val.flagMap d)) s else .refused .operands

end Sys2Proof.Machine
end

