-- ==== Sys2Proof/Machine/Mac.lean ====
section
/-! DEFINITION. The MAC transaction controller (43_mac_controller.md): the request, the PHY's answers and the two
internal steps. -/

namespace Sys2Proof.Machine

/-- The state an accepted request leaves, before the call is issued (R133): the frame in `txf`, the owner, and every
counter and result of the new transaction cleared. -/
def acceptRequest (c : Byte) (frame : List Byte) (s : State) : State :=
  { clearAttempt s with
    txf := s.txf.writeBytes 0 frame
    owner := some c
    retryCnt := 0
    lastCause := .none
    res := none
    st := .awaitEn }

/-- A request in `IDLE`: accepted (R133), or rejected before any I/O (R134). -/
def requestInIdle (c : Byte) (b : ReqBundle) (s : State) : Out :=
  match encodeFrame b.addr b.cmd b.len b.data with
  | .ok frame => issueCall (acceptRequest c frame s)
  | .error .invalidPayloadLength => .next (emitHost c .invalidPayloadLength s)

/-- REQ (R131): `BUSY` whenever `st` is not `IDLE`, before any look at the request (R132, R135). -/
def execReq (c : Byte) (b : ReqBundle) (s : State) : Out :=
  inLegalState s (if busy s then .next (emitHost c .busy s) else requestInIdle c b s)

/-- TXEN_OK (R137). The operand is ignored (30_encoding.md R88). -/
def execTxenOk (_ign : Byte) (s : State) : Out :=
  onAnswer .awaitEn s (issueCall { s with txIdx := 0, st := .tx })

/-- TXEN_ERR (R138). -/
def execTxenErr (_ign : Byte) (s : State) : Out :=
  onAnswer .awaitEn s (failAttempt .physErr s)

/-- WR_OK (R142): the next byte, or after the 17th the response. -/
def execWrOk (_ign : Byte) (s : State) : Out :=
  onAnswer .tx s
    (let s1 := { s with txIdx := s.txIdx + 1 }
    if s1.txIdx = 17#5 then issueCall { s1 with rxCnt := 0, rxExp := 0, st := .awaitRsp } else issueCall s1)

/-- WR_ERR (R141): `tx_idx` stays until the retry step clears it. -/
def execWrErr (_ign : Byte) (s : State) : Out :=
  onAnswer .tx s (failAttempt .physErr s)

/-- The cause a DECODE error fails the attempt with (R145). -/
def causeOfFrameError : FrameError → Cause
  | .malformedFrame => .malformed
  | .checksumMismatch => .checksum

/-- A whole response has arrived (R145): DECODE it; then `RESOLVED` with `SUCCESS`, or the attempt fails. The result
copies `retry_cnt` and `last_cause` (30_encoding.md R92). -/
def completeResponse (bytes : List Byte) (s : State) : Out :=
  match decodeFrame bytes with
  | .ok df =>
    issueCall
      { s with
        res := some (.success df (diagMap s.cfg.val.flagMap df.data) s.retryCnt s.lastCause)
        st := .resolved }
  | .error e => failAttempt (causeOfFrameError e) s

/-- The state after a byte has been stored (R145): counted, and on the 8th byte the whole length known. -/
def countByte (b : Byte) (mem : Memory) (s : State) : State :=
  { s with
    rxb := mem
    rxCnt := s.rxCnt + 1
    rxExp := if s.rxCnt + 1 = 8#9 then frameLength b else s.rxExp }

/-- The response's length is known and that many bytes have arrived (R145). -/
def frameComplete (s : State) : Bool := s.rxExp != 0#9 && s.rxCnt == s.rxExp

/-- One response byte in `AWAIT_RSP` (R145). DECODE reads `rxb[0..rx_cnt-1]` and nothing else (10_state.md R32). -/
def receiveByte (b : Byte) (s : State) : Out :=
  match writeBuf .rxb s.rxb s.rxCnt.toNat b with
  | .error e => .fault e
  | .ok mem =>
    let s1 := countByte b mem s
    if frameComplete s1 then
      match readBytes .rxb s1.rxb 0 s1.rxCnt.toNat with
      | .error e => .fault e
      | .ok bytes => completeResponse bytes s1
    else issueCall s1

/-- RX_BYTE (R145). -/
def execRxByte (b : Byte) (s : State) : Out :=
  onAnswer .awaitRsp s (receiveByte b s)

/-- RX_TIMEOUT (R146), with no bytes received or after part of a frame (R149). -/
def execRxTimeout (_ign : Byte) (s : State) : Out :=
  onAnswer .awaitRsp s (failAttempt .timeout s)

/-- RX_ERR (R147). -/
def execRxErr (_ign : Byte) (s : State) : Out :=
  onAnswer .awaitRsp s (failAttempt .physErr s)

/-- RETRY_STEP (R155): the step of `RETRY` and of no other state (30_encoding.md R98). -/
def execRetryStep (s : State) : Out :=
  inLegalState s (if s.st = .retry then returnFromError s else .refused .internalNotSelected)

/-- The state after a result has been reported (R157). `retry_cnt` and `last_cause` stay as they are. -/
def afterReport (s : State) : State :=
  { clearAttempt s with owner := none, res := none, st := .idle }

/-- Report the pending result to its owner (R157). -/
def reportResult (s : State) : Out :=
  match s.owner, s.res with
  | some c, some r => .next (afterReport (emitHost c r s))
  | none, _ => .fault .ownerMissing
  | some _, none => .fault .resultMissing

/-- RESOLVE_STEP (R157): the step of `RESOLVED` and of no other state (30_encoding.md R98). -/
def execResolveStep (s : State) : Out :=
  inLegalState s (if s.st = .resolved then reportResult s else .refused .internalNotSelected)

end Sys2Proof.Machine
end

