-- ==== Sys2Proof/Machine/Reset.lean ====
section
/-! DEFINITION. The external reset request (70_reset_and_hazards.md R188, R189). -/

namespace Sys2Proof.Machine

/-- What RESET_REQ writes: every field but `txf` and `rxb` (R188). -/
def clearForReset (s : State) : State :=
  { s with
    st := .idle
    owner := none
    res := none
    retryCnt := 0
    lastCause := .none
    txIdx := 0
    rxCnt := 0
    rxExp := 0 }

/-- RESET_REQ in a busy block: the owner gets `COMM_FAILURE(RESET)` with `retry_cnt` and `last_cause` as they stood,
a waiting result is discarded (R188, R189). -/
def abandon (s : State) : Out :=
  match s.owner with
  | some c => .next (clearForReset (emitHost c (.commFailure .reset s.retryCnt s.lastCause) s))
  | none => .fault .ownerMissing

/-- RESET_REQ (R188), in any state. -/
def execResetReq (_ign : Byte) (s : State) : Out :=
  inLegalState s (if busy s then abandon s else .next (clearForReset s))

end Sys2Proof.Machine
end

