-- ==== Sys2Proof/Machine/Wire.lean ====
section
/-! DEFINITION. The two wire rows of the opcode table (30_encoding.md R68, R71): bytes that arrive on the receive
wire (20_memory.md R50) and that the PHY answers byte by byte (log 11). -/

namespace Sys2Proof.Machine

/-- DELIM_STX_UNIQUE: the delimiter byte 0x82 arrives (R71). -/
def execDelimStxUnique (s : State) : Out := deliverWire [Config.delimStxUnique] s

/-- CMD48_FRAME: the 17 bytes of a Command 48 frame arrive, in index order (R68; 20_memory.md R53). -/
def execCmd48Frame (delimiter : Byte) (address data : List Byte) (checksum : Byte) (s : State) : Out :=
  deliverWire (wireFrameBytes delimiter address data checksum) s

end Sys2Proof.Machine
end

