-- ==== Sys2Proof/Machine/Dispatch.lean ====
section
/-! DEFINITION. One arm per row of spec/opcode_table.json. -/

namespace Sys2Proof.Machine

def exec (i : Instr) (s : State) : Host.Outcome State Fault Refusal :=
  match i with
  -- MAC events (30_encoding.md R89)
  | .req caller bundle => Sys2Proof.Machine.execReq caller bundle s
  | .txenOk ign => Sys2Proof.Machine.execTxenOk ign s
  | .txenErr ign => Sys2Proof.Machine.execTxenErr ign s
  | .wrOk ign => Sys2Proof.Machine.execWrOk ign s
  | .wrErr ign => Sys2Proof.Machine.execWrErr ign s
  | .rxByte b => Sys2Proof.Machine.execRxByte b s
  | .rxTimeout ign => Sys2Proof.Machine.execRxTimeout ign s
  | .rxErr ign => Sys2Proof.Machine.execRxErr ign s
  | .resetReq ign => Sys2Proof.Machine.execResetReq ign s
  -- function-port calls (30_encoding.md R91)
  | .bfTest b m => Sys2Proof.Machine.execBfTest b m s
  | .bfSet b m => Sys2Proof.Machine.execBfSet b m s
  | .xorFold bytes => Sys2Proof.Machine.execXorFold bytes s
  | .encodeFn addr cmd len data => Sys2Proof.Machine.execEncode addr cmd len data s
  | .decodeFn bytes => Sys2Proof.Machine.execDecode bytes s
  | .diagMap d => Sys2Proof.Machine.execDiagMap d s
  -- internal steps (30_encoding.md R98)
  | .retryStep => Sys2Proof.Machine.execRetryStep s
  | .resolveStep => Sys2Proof.Machine.execResolveStep s
  -- wire rows (30_encoding.md R68, R71)
  | .delimStxUnique => Sys2Proof.Machine.execDelimStxUnique s
  | .cmd48Frame delimiter address data checksum => Sys2Proof.Machine.execCmd48Frame delimiter address data checksum s

end Sys2Proof.Machine
end

