-- ==== Sys2Proof/Machine/Fetch.lean ====
section
/-! DEFINITION. Which input the next step takes (00_scope.md R7; 60_exceptions.md R175), what becomes of an input that
is no row of the opcode table, and how an input is placed in front. -/

namespace Sys2Proof.Machine

/-- What the next step takes, and the state with it taken from the schedule. `none`: the block waits for an event.
With nothing scheduled, `RETRY` and `RESOLVED` take their internal step (43_mac_controller.md R162; log 3). -/
def fetch (s : State) : Option (Raw × State) :=
  match s.inbox with
  | [] =>
    match s.st with
    | .retry => some (.st s.st.code, s)
    | .resolved => some (.st s.st.code, s)
    | .idle => none
    | .awaitEn => none
    | .tx => none
    | .awaitRsp => none
    | .unused6 => none
    | .unused7 => none
  | .ev evw b :: rest => some (.ev evw b, { s with inbox := rest })
  | .fn code ops :: rest => some (.fn code ops, { s with inbox := rest })
  | .internal :: rest => some (.st s.st.code, { s with inbox := rest })
  | .wire bytes :: rest => some (.wire bytes, { s with inbox := rest })

/-- The block waits: nothing changes (60_exceptions.md R174; 70_reset_and_hazards.md R200). -/
def waitForEvent (s : State) : Out := inLegalState s (.next s)

/-- An input that is no row: a reserved event is dropped (30_encoding.md R96), a reserved function is refused (R97),
other wire bytes are delivered byte by byte (log 11), and what no port can carry is refused (log 4, log 10). -/
def rejected (e : Reject) (s : State) : Out :=
  match e with
  | .reservedEvent _ => inLegalState s (.next s)
  | .reservedFunction code => inLegalState s (.refused (.reservedFunction code))
  | .noInternalStep _ => inLegalState s (.refused .internalNotSelected)
  | .shortData => inLegalState s (.refused .operands)
  | .operandLength => inLegalState s (.refused .operands)
  | .otherWire bytes => deliverWire bytes s

/-- Place an input in front of the schedule. An internal step is selected by `st`, so `st` is set; `RESOLVE_STEP`
has a pending result and an owner (10_state.md R40, R41(a)), so they are supplied where missing (log 12). -/
def placeRaw (s : State) : Raw → State
  | .ev evw b => { s with inbox := .ev evw b :: s.inbox }
  | .fn code ops => { s with inbox := .fn code ops :: s.inbox }
  | .wire bytes => { s with inbox := .wire bytes :: s.inbox }
  | .st bits =>
    let s1 := { s with st := MacState.ofCode bits, inbox := .internal :: s.inbox }
    if s1.st = .resolved then
      { s1 with
        owner := some (s.owner.getD 0#8)
        res := some (s.res.getD (.commFailure .retriesExhausted s.retryCnt s.lastCause)) }
    else s1

end Sys2Proof.Machine
end

