-- ==== Sys2Proof/Machine/Step.lean ====
section
/-! DEFINITION. One step: take one input (00_scope.md R7), decode it, run it. -/

namespace Sys2Proof.Machine

/-- Decode the words taken and run the instruction, or do what becomes of an input that is no row. -/
def runRaw (w : Raw) (s : State) : Host.Outcome State Fault Refusal :=
  match decode w with
  | .ok i => exec i s
  | .error e => rejected e s

/-- One step of the block (R7). A step is atomic (R17). -/
def step (s : State) : Host.Outcome State Fault Refusal :=
  match fetch s with
  | none => waitForEvent s
  | some (w, s1) => runRaw w s1

/-- The state whose very next step runs the instruction of a table row (log 12, log 19). -/
def State.withFetchWord (s : State) (nbits w : Nat) : State := placeRaw s (rawOfTableWord nbits w)

end Sys2Proof.Machine
end

