-- ==== Sys2Proof/Safety.lean ====
section
/-! DEFINITION. What a safe run is, in the terms the statements use: the invariants of the reachable states
(10_state.md R40, R41), the inputs a port can carry, which PHY events act (43_mac_controller.md R161, R162), and the
measure of the work left in a transaction (70_reset_and_hazards.md R200). -/

namespace Sys2Proof.Safety

open Sys2Proof.Machine

/-- Every index below `n` holds a value. -/
def Filled (m : Memory) (n : Nat) : Prop := ∀ i, i < n → (m.read i).isSome = true

/-- The MAC waits for an answer of the PHY (43_mac_controller.md R159, R160). -/
def waitsForPhy (st : MacState) : Bool := st == .awaitEn || st == .tx || st == .awaitRsp

/-- A result that ends an accepted transaction (60_exceptions.md R169, R185). -/
def endsTransaction : TransactionResult → Bool
  | .success _ _ _ _ => true
  | .commFailure _ _ _ => true
  | .busy => false
  | .invalidPayloadLength => false

/-- The invariants of the reachable states. The names in brackets are those of 10_state.md R41. -/
structure Inv (s : State) : Prop where
  /-- `st` is 0..5 (R25). -/
  legal : s.st.unused = false
  /-- There is an owner exactly when the block is busy (R40). -/
  owner_iff_busy : s.owner.isSome = busy s
  /-- (a) There is a pending result exactly in `RESOLVED`. -/
  res_iff_resolved : s.res.isSome = true ↔ s.st = .resolved
  /-- A pending result is one that ends a transaction (R34). -/
  res_final : ∀ r, s.res = some r → endsTransaction r = true
  /-- (b) In `TX` a byte is left to send. -/
  tx_bound : s.st = .tx → s.txIdx.toNat < 17
  /-- (c) In `AWAIT_RSP` the response is not complete. -/
  rx_shape : s.st = .awaitRsp →
    (s.rxExp.toNat = 0 ∧ s.rxCnt.toNat < 8) ∨ (9 ≤ s.rxExp.toNat ∧ s.rxCnt.toNat < s.rxExp.toNat)
  /-- (d) An attempt is within the budget. -/
  attempt_budget : waitsForPhy s.st = true → s.retryCnt.toNat ≤ s.cfg.val.maxRetries
  /-- (e) So is a failed attempt, and it has a cause. -/
  retry_budget : s.st = .retry → s.retryCnt.toNat ≤ s.cfg.val.maxRetries ∧ s.lastCause ≠ .none
  /-- (f) The counter never passes `MAX_RETRIES` + 1. -/
  retry_bound : s.retryCnt.toNat ≤ s.cfg.val.maxRetries + 1
  /-- (g) In `IDLE` the indices are clear. -/
  idle_clear : s.st = .idle → s.txIdx = 0 ∧ s.rxCnt = 0 ∧ s.rxExp = 0
  /-- The ranges of R28, R30 and R31. -/
  tx_range : s.txIdx.toNat ≤ 17
  rx_range : s.rxCnt.toNat ≤ 264
  exp_range : s.rxExp.toNat = 0 ∨ (9 ≤ s.rxExp.toNat ∧ s.rxExp.toNat ≤ 264)
  /-- The buffers are in canonical form, inside their bounds. -/
  txf_wf : s.txf.wf .txf = true
  rxb_wf : s.rxb.wf .rxb = true
  /-- A busy block holds a whole frame in `txf` (R27). -/
  txf_filled : s.st ≠ .idle → Filled s.txf 17
  /-- The bytes received in this attempt hold values (R29, R32). -/
  rxb_filled : s.st = .awaitRsp → Filled s.rxb s.rxCnt.toNat

/-- What the next step takes, if anything, is something the ports can carry and the block has a step for: an
instruction, a reserved event word (dropped, 30_encoding.md R96) or other wire bytes. Shut out are a reserved function
code (R97), operands no port can carry (log 10), and a turn for an internal step that `st` does not select (R98). -/
def Carriable (s : State) : Prop :=
  ∀ w s1, fetch s = some (w, s1) →
    (∃ i, decode w = .ok i) ∨ (∃ c, decode w = .error (.reservedEvent c)) ∨ (∃ bs, decode w = .error (.otherWire bs))

/-- A PHY event that answers no outstanding call in this `st` (43_mac_controller.md R161). -/
def stray (st : MacState) : Instr → Bool
  | .txenOk _ => st != .awaitEn
  | .txenErr _ => st != .awaitEn
  | .wrOk _ => st != .tx
  | .wrErr _ => st != .tx
  | .rxByte _ => st != .awaitRsp
  | .rxTimeout _ => st != .awaitRsp
  | .rxErr _ => st != .awaitRsp
  | .req _ _ => false
  | .resetReq _ => false
  | .bfTest _ _ => false
  | .bfSet _ _ => false
  | .xorFold _ => false
  | .encodeFn _ _ _ _ => false
  | .decodeFn _ => false
  | .diagMap _ => false
  | .retryStep => false
  | .resolveStep => false
  | .delimStxUnique => false
  | .cmd48Frame _ _ _ _ => false

/-- An answer of the PHY to the outstanding call, or an internal step where `st` selects it: the steps that carry a
transaction on (43_mac_controller.md R162). -/
def advances (st : MacState) : Instr → Bool
  | .txenOk _ => st == .awaitEn
  | .txenErr _ => st == .awaitEn
  | .wrOk _ => st == .tx
  | .wrErr _ => st == .tx
  | .rxByte _ => st == .awaitRsp
  | .rxTimeout _ => st == .awaitRsp
  | .rxErr _ => st == .awaitRsp
  | .retryStep => st == .retry
  | .resolveStep => st == .resolved
  | .req _ _ => false
  | .resetReq _ => false
  | .bfTest _ _ => false
  | .bfSet _ _ => false
  | .xorFold _ => false
  | .encodeFn _ _ _ _ => false
  | .decodeFn _ => false
  | .diagMap _ => false
  | .delimStxUnique => false
  | .cmd48Frame _ _ _ _ => false

/-- The most steps one attempt takes: one enable, 17 writes, 264 reads and the retry step (R200). -/
def attemptSteps : Nat := 1 + 17 + 264 + 1

/-- How many advancing steps the transaction in flight can still take at most (R200). -/
def workLeft (s : State) : Nat :=
  let later := (s.cfg.val.maxRetries - s.retryCnt.toNat) * attemptSteps
  match s.st with
  | .idle => 0
  | .resolved => 1
  | .retry => later + 2
  | .awaitRsp => later + 2 + (264 - s.rxCnt.toNat)
  | .tx => later + 266 + (17 - s.txIdx.toNat)
  | .awaitEn => later + 284
  | .unused6 => 0
  | .unused7 => 0

/-- `n` steps of the machine, stopping at the first fault or refusal. -/
def runSteps (n : Nat) (s : State) : Out := Host.Core.run Sys2Proof.core n s

/-- Everything a function-port call may not touch: the state of the block but for the schedule and the answers
(30_encoding.md R90). -/
def sameBlock (s t : State) : Prop :=
  t = { s with inbox := t.inbox, fnOut := t.fnOut }

/-- The events of an attempt whose response never comes: the enable and the 17 writes are accepted, the read times
out, and the retry step is taken (95_test_vectors.md P3). -/
def timedOutAttempt : List Input :=
  [.ev (evWord 0x02#8 0#8) ReqBundle.zero] ++ List.replicate 17 (.ev (evWord 0x04#8 0#8) ReqBundle.zero) ++
    [.ev (evWord 0x07#8 0#8) ReqBundle.zero, .internal]

/-- `n` such attempts, one after the other. -/
def timedOutAttempts : Nat → List Input
  | 0 => []
  | n + 1 => timedOutAttempt ++ timedOutAttempts n

/-- The `RX_BYTE` events of a response, in order (30_encoding.md R99). -/
def responseEvents (bytes : List Byte) : List Input :=
  bytes.map fun b => .ev (evWord 0x06#8 b) ReqBundle.zero

end Sys2Proof.Safety
end

