-- ==== Sys2Proof/Certificates/Slice0/Obligations.lean ====
section
/-! DEFINITION. The statements for the provers. Each docstring names the rules of spec/ it formalises, or says that it
rests on a choice of the model and names the log entry. -/

open Sys2Proof Sys2Proof.Machine Sys2Proof.Safety

/-! ### Encoding -/

/-- The words of every well-formed instruction decode to it, with every operand at every value (30_encoding.md R88,
R89, R91, R98, R68, R71; the operand wires of the ports are the model's form, log 10). -/
def Obligations.DecodeEncodeAgree : Prop :=
  ∀ i : Instr, i.wf = true → decode (encode i) = .ok i

/-- What decodes is well formed, and its own words are the words it was read from: the whole event word, the whole
function code, the value of `st`, every wire byte (R88, R91, R98, R68; the decoder's operand checks are log 10). -/
def Obligations.DecodedWordsAreTheInstructionsOwn : Prop :=
  ∀ (w : Raw) (i : Instr), decode w = .ok i →
    i.wf = true ∧
      match w with
      | .ev evw _ => ∃ b, encode i = .ev evw b
      | .fn code _ => ∃ ops, encode i = .fn code ops
      | .st bits => encode i = .st bits
      | .wire bytes => encode i = .wire bytes

/-- Words written out from the tables of R89, R91, R98, R71 and R68 decode to what they stand for (the port a table
word comes on is the model's choice, log 19). -/
def Obligations.TableWordsDecode : Prop :=
  decodeTableWord 16 0x0101 = some (.req 0x01#8 ReqBundle.zero) ∧
    decodeTableWord 16 0x0200 = some (.txenOk 0#8) ∧
    decodeTableWord 16 0x04FF = some (.wrOk 0xFF#8) ∧
    decodeTableWord 16 0x06EF = some (.rxByte 0xEF#8) ∧
    decodeTableWord 16 0x0900 = some (.resetReq 0#8) ∧
    decodeTableWord 16 0x0A00 = none ∧
    decodeTableWord 8 0x10 = some (.bfTest 0#8 0#8) ∧
    decodeTableWord 8 0x14 = some (.decodeFn []) ∧
    decodeTableWord 8 0x16 = none ∧
    decodeTableWord 8 0b100 = some .retryStep ∧
    decodeTableWord 8 0b101 = some .resolveStep ∧
    decodeTableWord 8 0x82 = some .delimStxUnique ∧
    decodeTableWord 136 0x6E00000000000000000830FFFFFF2B0082 =
      some (.cmd48Frame 0x82#8 [0x00#8, 0x2B#8, 0xFF#8, 0xFF#8, 0xFF#8] (List.replicate 8 0#8) 0x6E#8)

/-- A step takes the first scheduled input and runs the instruction it decodes to; with nothing scheduled it runs the
internal step that `st` selects (00_scope.md R7; 43_mac_controller.md R162; the schedule is the model's, logs 1 and 3). -/
def Obligations.StepRunsTheDecodedInstruction : Prop :=
  ∀ (s : State) (i : Instr) (rest : List Input),
    (∀ evw b, s.inbox = .ev evw b :: rest → decode (.ev evw b) = .ok i →
      step s = exec i { s with inbox := rest }) ∧
    (∀ code ops, s.inbox = .fn code ops :: rest → decode (.fn code ops) = .ok i →
      step s = exec i { s with inbox := rest }) ∧
    (∀ bytes, s.inbox = .wire bytes :: rest → decode (.wire bytes) = .ok i →
      step s = exec i { s with inbox := rest }) ∧
    (s.inbox = .internal :: rest → decode (.st s.st.code) = .ok i →
      step s = exec i { s with inbox := rest }) ∧
    (s.inbox = [] → decode (.st s.st.code) = .ok i → step s = exec i s)

/-- A table word placed in front is what the very next step runs; an event, a function call or wire bytes run in the
state they were placed in (logs 12 and 19). -/
def Obligations.PlacedTableWordRunsNext : Prop :=
  ∀ (s : State) (nbits w : Nat) (i : Instr), decodeTableWord nbits w = some i →
    ∃ s1, step (s.withFetchWord nbits w) = exec i s1 ∧ s1.inbox = s.inbox ∧
      (i ≠ .retryStep → i ≠ .resolveStep → s1 = s) ∧
      (i = .retryStep → s1.st = .retry) ∧ (i = .resolveStep → s1.st = .resolved)

/-- With nothing scheduled the block waits for an event in `IDLE` and in the three waits for the PHY: nothing changes
(70_reset_and_hazards.md R186, R200; 43_mac_controller.md R136; that waiting is a step is log 3). -/
def Obligations.BlockWaitsForAnEvent : Prop :=
  ∀ s : State, s.inbox = [] → (s.st = .idle ∨ waitsForPhy s.st = true) → step s = .next s

/-- R96: a reserved event word, codes 0x00 and 0x0A..0xFF, changes no state and produces no output. -/
def Obligations.ReservedEventsAreDropped : Prop :=
  ∀ (s : State) (evw : U16) (b : ReqBundle) (rest : List Input),
    s.st.unused = false → s.inbox = .ev evw b :: rest → (evw.toNat < 0x0100 ∨ 0x0A00 ≤ evw.toNat) →
      step s = .next { s with inbox := rest }

/-- R97: a call with a reserved function code, 0x00..0x0F or 0x16..0xFF, is refused. -/
def Obligations.ReservedFunctionsAreRefused : Prop :=
  ∀ (s : State) (code : Byte) (ops : FnOperands) (rest : List Input),
    s.st.unused = false → s.inbox = .fn code ops :: rest → (code.toNat < 0x10 ∨ 0x16 ≤ code.toNat) →
      step s = .refused (.reservedFunction code)

/-- R25: the values 6 and 7 of `st` are never written, and a state that has one is refused, not stepped. -/
def Obligations.UnusedStatesAreRefusedAndNeverEntered : Prop :=
  (∀ s : State, s.st.unused = true → step s = .refused .unusedState) ∧
    ∀ s t : State, step s = .next t → s.st.unused = false ∧ t.st.unused = false

/-! ### BitField unit -/

/-- R100, R101: the codes of BF_TEST and BF_SET, what they answer, with status 0 (R95), and that the call changes
nothing else. -/
def Obligations.BitFieldCallsAnswer : Prop :=
  (∀ ops, decode (.fn 0x10#8 ops) = .ok (.bfTest ops.b ops.m) ∧ decode (.fn 0x11#8 ops) = .ok (.bfSet ops.b ops.m)) ∧
  ∀ (s : State) (b m : Byte), s.st.unused = false →
    exec (.bfTest b m) s = .next { s with fnOut := s.fnOut ++ [.bit (decide (b &&& m ≠ 0#8))] } ∧
      exec (.bfSet b m) s = .next { s with fnOut := s.fnOut ++ [.byte (b ||| m)] } ∧
      (FnAnswer.bit (decide (b &&& m ≠ 0#8))).status = 0#8 ∧ (FnAnswer.byte (b ||| m)).status = 0#8

/-- R102 (a) to (d): the laws of the two functions. -/
def Obligations.BitFieldLaws : Prop :=
  (∀ b m : Byte, m ≠ 0#8 → bfTest (bfSet b m) m = true) ∧
    (∀ b m : Byte, bfSet (bfSet b m) m = bfSet b m) ∧
    (∀ b m1 m2 : Byte, bfTest b (m1 ||| m2) = (bfTest b m1 || bfTest b m2)) ∧
    ∀ (b : Byte) (k : Nat), k < 8 → bfTest b (1#8 <<< k) = b.getLsbD k

/-! ### Frame Codec -/

/-- R104: XOR_FOLD folds byte by byte from 0x00, does not depend on the order, and on the function port answers the
fold of 0..264 bytes, with status 0 (R95). -/
def Obligations.XorFoldFoldsAndAnswers : Prop :=
  (∀ ops, ops.buf.length ≤ 264 → decode (.fn 0x12#8 ops) = .ok (.xorFold ops.buf)) ∧
    xorFold [] = 0#8 ∧
    (∀ (s : List Byte) (b : Byte), xorFold (s ++ [b]) = xorFold s ^^^ b) ∧
    (∀ s t : List Byte, s.Perm t → xorFold s = xorFold t) ∧
    xorFold [0x82#8, 0x00#8, 0x2B#8, 0xFF#8, 0xFF#8, 0xFF#8, 0x30#8, 0x08#8] = 0x6E#8 ∧
    ∀ (s : State) (bytes : List Byte), s.st.unused = false → bytes.length ≤ 264 →
      exec (.xorFold bytes) s = .next { s with fnOut := s.fnOut ++ [.byte (xorFold bytes)] } ∧
        (FnAnswer.byte (xorFold bytes)).status = 0#8

/-- R105 (a) to (d): the laws of XOR_FOLD. -/
def Obligations.XorFoldLaws : Prop :=
  (∀ s : List Byte, xorFold (s ++ [xorFold s]) = 0#8) ∧
    (∀ s t : List Byte, xorFold (s ++ t) = xorFold s ^^^ xorFold t) ∧
    (∀ (s : List Byte) (i k : Nat), i < s.length → k < 8 →
      xorFold (s.set i (s.getD i 0#8 ^^^ (1#8 <<< k))) = xorFold s ^^^ (1#8 <<< k)) ∧
    ∀ (s : List Byte) (n : Nat), xorFold (s ++ List.replicate n 0#8) = xorFold s

/-- R109: ENCODE on the function port, code 0x13. A recognized command with its byte count gives the 17 bytes in the order of the
frame with the checksum last; anything else gives `InvalidPayloadLength` and no frame. Nothing else changes. -/
def Obligations.EncodeAnswers : Prop :=
  (∀ ops, ops.len.toNat ≤ ops.buf.length →
    decode (.fn 0x13#8 ops) = .ok (.encodeFn ops.addr ops.cmd ops.len (ops.buf.take ops.len.toNat))) ∧
  ∀ (s : State) (a : Address) (cmd len : Byte) (data : List Byte), s.st.unused = false → data.length = len.toNat →
    (cmd = 0x30#8 → len = 8#8 → ∃ f,
      exec (.encodeFn a cmd len data) s = .next { s with fnOut := s.fnOut ++ [.frame f] } ∧
        f.length = 17 ∧ f.take 16 = [0x82#8] ++ serAddr a ++ [0x30#8, 0x08#8] ++ data ∧
        f.drop 16 = [xorFold (f.take 16)] ∧ (FnAnswer.frame f).status = 0#8) ∧
    (cmd ≠ 0x30#8 ∨ len ≠ 8#8 →
      exec (.encodeFn a cmd len data) s =
        .next { s with fnOut := s.fnOut ++ [.noFrame .invalidPayloadLength] } ∧
        (FnAnswer.noFrame .invalidPayloadLength).status = 1#8)

/-- R110: the five address bytes, as numbers of the four fields. Bits 15:14 of `deviceTypeCode` are read by nothing. -/
def Obligations.AddressSerializesToItsFields : Prop :=
  ∀ a : Address,
    (serAddr a).map BitVec.toNat =
      [ (if a.masterAddress = .primary then 128 else 0) + (if a.burstMode then 64 else 0) +
          a.deviceTypeCode.toNat / 256 % 64,
        a.deviceTypeCode.toNat % 256,
        a.deviceID.toNat / 65536,
        a.deviceID.toNat / 256 % 256,
        a.deviceID.toNat % 256 ]

/-- R111: the fields of a parsed address as numbers of its bytes; parsing is the inverse of serializing, and every
5-byte value parses. -/
def Obligations.ParsedAddressSerializesBack : Prop :=
  ∀ a0 a1 a2 a3 a4 : Byte,
    let p := parseAddr a0 a1 a2 a3 a4
    (p.masterAddress = .primary ↔ 128 ≤ a0.toNat) ∧
      (p.burstMode = true ↔ a0.toNat / 64 % 2 = 1) ∧
      p.deviceTypeCode.toNat = a0.toNat % 64 * 256 + a1.toNat ∧
      p.deviceID.toNat = a2.toNat * 65536 + a3.toNat * 256 + a4.toNat ∧
      serAddr p = [a0, a1, a2, a3, a4]

/-- R112: DECODE's verdict, structure before checksum, on every sequence; its code 0x14; and its answer on the function
port for 0..264 bytes, with the status codes 0, 1, 2. -/
def Obligations.DecodeVerdictAndAnswer : Prop :=
  (∀ ops, ops.buf.length ≤ 264 → decode (.fn 0x14#8 ops) = .ok (.decodeFn ops.buf)) ∧
  ∀ s : List Byte,
    (¬(s.length = 17 ∧ s.getD 6 0#8 = 0x30#8 ∧ s.getD 7 0#8 = 0x08#8) →
      decodeFrame s = .error .malformedFrame) ∧
    (s.length = 17 → s.getD 6 0#8 = 0x30#8 → s.getD 7 0#8 = 0x08#8 →
      (xorFold (s.take 16) ≠ s.getD 16 0#8 → decodeFrame s = .error .checksumMismatch) ∧
        (xorFold (s.take 16) = s.getD 16 0#8 → ∃ df, decodeFrame s = .ok df)) ∧
    ∀ st : State, st.st.unused = false → s.length ≤ 264 →
      (∀ df, decodeFrame s = .ok df →
        exec (.decodeFn s) st = .next { st with fnOut := st.fnOut ++ [.decoded df] } ∧
          (FnAnswer.decoded df).status = 0#8) ∧
      (∀ e, decodeFrame s = .error e →
        exec (.decodeFn s) st = .next { st with fnOut := st.fnOut ++ [.notDecoded e] } ∧
          (FnAnswer.notDecoded e).status = if e = .malformedFrame then 1#8 else 2#8)

/-- R113, R114: a frame with the right structure and checksum decodes whatever its delimiter and address bytes are,
and this is its record. -/
def Obligations.DecodedFrameRecord : Prop :=
  ∀ dl a0 a1 a2 a3 a4 d0 d1 d2 d3 d4 d5 d6 d7 : Byte,
    let body := [dl, a0, a1, a2, a3, a4, 0x30#8, 0x08#8, d0, d1, d2, d3, d4, d5, d6, d7]
    ∃ df, decodeFrame (body ++ [xorFold body]) = .ok df ∧
      df.delimiter = dl ∧ df.address = parseAddr a0 a1 a2 a3 a4 ∧ df.command = 0x30#8 ∧ df.byteCount = 0x08#8 ∧
        df.data = [d0, d1, d2, d3, d4, d5, d6, d7] ∧ df.response = [d1, d2, d3, d4, d5, d6]

/-- R115: every frame ENCODE returns folds to 0x00. -/
def Obligations.EncodedFrameFoldsToZero : Prop :=
  ∀ (a : Address) (cmd len : Byte) (data f : List Byte), encodeFrame a cmd len data = .ok f → xorFold f = 0#8

/-- R116: DECODE of ENCODE gives the data, the constant fields and the address back; of an address that is not valid,
with bits 15:14 of its `deviceTypeCode` dropped. -/
def Obligations.CodecRoundTrip : Prop :=
  ∀ (a : Address) (d : List Byte), d.length = 8 →
    ∃ f df, encodeFrame a 0x30#8 8#8 d = .ok f ∧ decodeFrame f = .ok df ∧
      df.data = d ∧ df.delimiter = 0x82#8 ∧ df.command = 0x30#8 ∧ df.byteCount = 0x08#8 ∧
      df.address = { a with deviceTypeCode := a.deviceTypeCode &&& 0x3FFF#16 } ∧
      (validAddress a = true → df.address = a)

/-- R117: flip one bit of one byte of an encoded frame. In byte 6 or 7 DECODE says `MalformedFrame`, in any other byte
`ChecksumMismatch`; no flip decodes. -/
def Obligations.SingleBitFlipIsDetected : Prop :=
  ∀ (a : Address) (cmd len : Byte) (data f : List Byte) (i k : Nat),
    encodeFrame a cmd len data = .ok f → i < 17 → k < 8 →
      decodeFrame (f.set i (f.getD i 0#8 ^^^ (1#8 <<< k))) =
        .error (if i = 6 ∨ i = 7 then .malformedFrame else .checksumMismatch)

/-- R118: DECODE accepts 17-byte frames and no others. -/
def Obligations.OnlySeventeenBytesDecode : Prop :=
  ∀ (s : List Byte) (df : DecodedFrame), decodeFrame s = .ok df → s.length = 17

/-! ### Diagnostic field mapper -/

/-- R124, R125: DIAG_MAP on the function port, code 0x15. The status bytes are D1..D6, each named flag is its bit, a
name outside `FLAG_MAP` is no flag, D0 and D7 change nothing, the status is 0 (R95), and the call changes nothing else.
The model's choice in it: the flags stand in the order of `FLAG_MAP` (log 18). -/
def Obligations.DiagMapAnswers : Prop :=
  (∀ ops, ops.buf.length = 8 → decode (.fn 0x15#8 ops) = .ok (.diagMap ops.buf)) ∧
  ∀ (s : State) (d0 d1 d2 d3 d4 d5 d6 d7 : Byte), s.st.unused = false →
    ∃ dg, exec (.diagMap [d0, d1, d2, d3, d4, d5, d6, d7]) s =
        .next { s with fnOut := s.fnOut ++ [.diagnostics dg] } ∧
      dg.status = [d1, d2, d3, d4, d5, d6] ∧
      (∀ e ∈ s.cfg.val.flagMap,
        dg.flag e.name = some (bfTest ([d0, d1, d2, d3, d4, d5, d6, d7].getD e.byte 0#8) e.mask)) ∧
      dg.flags.map (fun f => f.1) = s.cfg.val.flagMap.map (fun e => e.name) ∧
      (∀ n, n ∉ s.cfg.val.flagMap.map (fun e => e.name) → dg.flag n = none) ∧
      (FnAnswer.diagnostics dg).status = 0#8 ∧
      ∀ x y : Byte, diagMap s.cfg.val.flagMap [x, d1, d2, d3, d4, d5, d6, y] = dg

/-- R126: a payload with only one entry's bit set gives exactly that flag. -/
def Obligations.FlagFidelity : Prop :=
  ∀ (p : Config.Params), ∀ e ∈ p.val.flagMap,
    let dg := diagMap p.val.flagMap ((List.replicate 8 0#8).set e.byte e.mask)
    dg.flag e.name = some true ∧ ∀ e' ∈ p.val.flagMap, e'.name ≠ e.name → dg.flag e'.name = some false

/-! ### Requests -/

/-- R132: a request while busy answers `BUSY` to its caller, whatever its fields, and writes nothing else. -/
def Obligations.RequestWhileBusyAnswersBusy : Prop :=
  ∀ (s : State) (c : Byte) (b : ReqBundle), s.st.unused = false → s.st ≠ .idle →
    exec (.req c b) s = .next { s with hostOut := s.hostOut ++ [(c, .busy)] }

/-- R133: a well-formed request in `IDLE` is accepted: `txf` holds the encoded frame, the transaction's fields are set,
the enable call is issued, and nothing else changes. -/
def Obligations.RequestAccepted : Prop :=
  ∀ (s : State) (c : Byte) (b : ReqBundle),
    s.st = .idle → b.wf = true → b.cmd = 0x30#8 → b.len = 8#8 →
      ∃ t f, exec (.req c b) s = .next t ∧ encodeFrame b.addr b.cmd b.len b.data = .ok f ∧ f.length = 17 ∧
        (∀ j, t.txf.read j = if j < 17 then f[j]? else s.txf.read j) ∧
        (∀ j, t.rxb.read j = s.rxb.read j) ∧
        t = { s with
              txf := t.txf, owner := some c, retryCnt := 0, lastCause := .none, res := none, txIdx := 0,
              rxCnt := 0, rxExp := 0, st := .awaitEn, phyOut := s.phyOut ++ [.enableTransmit] }

/-- R134: a request in `IDLE` whose command is not 0x30 or whose length is not 8 is rejected before any I/O. -/
def Obligations.RequestRejected : Prop :=
  ∀ (s : State) (c : Byte) (b : ReqBundle), s.st = .idle → (b.cmd ≠ 0x30#8 ∨ b.len ≠ 8#8) →
    exec (.req c b) s = .next { s with hostOut := s.hostOut ++ [(c, .invalidPayloadLength)] }

/-- Of two requests in consecutive steps from `IDLE` the first is accepted and the second is answered `BUSY`
(20_memory.md R65; 43_mac_controller.md R135). -/
def Obligations.SecondRequestIsBusy : Prop :=
  ∀ (s : State) (c1 c2 : Byte) (b1 b2 : ReqBundle) (rest : List Input),
    s.st = .idle → b1.wf = true → b2.wf = true → b1.cmd = 0x30#8 → b1.len = 8#8 →
    s.inbox = .ev (evWord 0x01#8 c1) b1 :: .ev (evWord 0x01#8 c2) b2 :: rest →
      ∃ t, runSteps 2 s = .next t ∧ t.st = .awaitEn ∧ t.owner = some c1 ∧
        t.hostOut = s.hostOut ++ [(c2, .busy)] ∧ t.inbox = rest

/-! ### The PHY's answers -/

/-- R137: TXEN_OK, code 0x02, in `AWAIT_EN` goes to `TX` at byte 0 and calls for it. -/
def Obligations.TransmitEnableStartsSending : Prop :=
  (∀ x b, decode (.ev (evWord 0x02#8 x) b) = .ok (.txenOk x)) ∧
  ∀ (s : State) (x b0 : Byte), s.st = .awaitEn → s.txf.read 0 = some b0 →
    exec (.txenOk x) s =
      .next { s with txIdx := 0, st := .tx, phyOut := s.phyOut ++ [.writeByte b0] }

/-- R142: WR_OK, code 0x04, in `TX` counts the byte; up to the 16th it calls for the next byte, on the 17th it goes to `AWAIT_RSP`
and calls for the first response byte. -/
def Obligations.ByteWrittenAdvances : Prop :=
  (∀ x b, decode (.ev (evWord 0x04#8 x) b) = .ok (.wrOk x)) ∧
  ∀ (s : State) (x : Byte), s.st = .tx →
    (∀ b, s.txIdx.toNat < 16 → s.txf.read (s.txIdx.toNat + 1) = some b →
      exec (.wrOk x) s = .next { s with txIdx := s.txIdx + 1, phyOut := s.phyOut ++ [.writeByte b] }) ∧
    (s.txIdx.toNat = 16 →
      exec (.wrOk x) s =
        .next { s with txIdx := 17, rxCnt := 0, rxExp := 0, st := .awaitRsp,
                       phyOut := s.phyOut ++ [.readByte s.cfg.val.deadlineFirst] })

/-- R138, R141, R146, R147: each failing answer, by its code, in the state that waits for it, records its cause, goes
to `RETRY`, and changes nothing else; the time-out does so with no bytes and after any part of a response. -/
def Obligations.FailingAnswersFailTheAttempt : Prop :=
  (∀ x b, decode (.ev (evWord 0x03#8 x) b) = .ok (.txenErr x) ∧ decode (.ev (evWord 0x05#8 x) b) = .ok (.wrErr x) ∧
    decode (.ev (evWord 0x07#8 x) b) = .ok (.rxTimeout x) ∧ decode (.ev (evWord 0x08#8 x) b) = .ok (.rxErr x)) ∧
  ∀ (s : State) (x : Byte),
    (s.st = .awaitEn → exec (.txenErr x) s = .next { s with lastCause := .physErr, st := .retry }) ∧
      (s.st = .tx → exec (.wrErr x) s = .next { s with lastCause := .physErr, st := .retry }) ∧
      (s.st = .awaitRsp → exec (.rxTimeout x) s = .next { s with lastCause := .timeout, st := .retry }) ∧
      (s.st = .awaitRsp → exec (.rxErr x) s = .next { s with lastCause := .physErr, st := .retry })

/-- R145: RX_BYTE, code 0x06, in `AWAIT_RSP`. The byte is stored at `rx_cnt` and counted, and the 8th byte fixes the
length. Short of the length, the next byte is called for with the later deadline (R144). At the length, DECODE runs on
the bytes received: on OK the result is `SUCCESS` with the mapped diagnostics and `st` is `RESOLVED`; on an error the
attempt fails with its cause. Nothing else changes. -/
def Obligations.ResponseByteReceived : Prop :=
  (∀ x b, decode (.ev (evWord 0x06#8 x) b) = .ok (.rxByte x)) ∧
  ∀ (s : State) (b : Byte), s.st = .awaitRsp → s.rxCnt.toNat < 264 →
    let exp := if s.rxCnt.toNat = 7 then 9 + b.toNat else s.rxExp.toNat
    ((exp = 0 ∨ s.rxCnt.toNat + 1 ≠ exp) →
      ∃ t, exec (.rxByte b) s = .next t ∧
        (∀ j, t.rxb.read j = if j = s.rxCnt.toNat then some b else s.rxb.read j) ∧
        (∀ j, t.txf.read j = s.txf.read j) ∧
        t.rxExp.toNat = exp ∧
        t = { s with rxb := t.rxb, rxCnt := s.rxCnt + 1, rxExp := t.rxExp,
                     phyOut := s.phyOut ++ [.readByte s.cfg.val.deadlineNext] }) ∧
    ∀ got : List Byte, got.length = s.rxCnt.toNat → (∀ j, j < got.length → s.rxb.read j = got[j]?) →
      s.rxCnt.toNat + 1 = exp →
      ∃ t, exec (.rxByte b) s = .next t ∧
        (∀ j, t.rxb.read j = if j = s.rxCnt.toNat then some b else s.rxb.read j) ∧
        (∀ j, t.txf.read j = s.txf.read j) ∧
        t.rxExp.toNat = exp ∧
        (∀ df, decodeFrame (got ++ [b]) = .ok df →
          t = { s with rxb := t.rxb, rxCnt := s.rxCnt + 1, rxExp := t.rxExp, st := .resolved,
                       res := some (.success df (diagMap s.cfg.val.flagMap df.data) s.retryCnt s.lastCause) }) ∧
        (decodeFrame (got ++ [b]) = .error .malformedFrame →
          t = { s with rxb := t.rxb, rxCnt := s.rxCnt + 1, rxExp := t.rxExp, st := .retry,
                       lastCause := .malformed }) ∧
        (decodeFrame (got ++ [b]) = .error .checksumMismatch →
          t = { s with rxb := t.rxb, rxCnt := s.rxCnt + 1, rxExp := t.rxExp, st := .retry,
                       lastCause := .checksum })

/-- R161: a PHY event that does not answer the outstanding call is dropped: nothing changes. -/
def Obligations.StrayEventsAreDropped : Prop :=
  ∀ (s : State) (i : Instr), s.st.unused = false → stray s.st i = true → exec i s = .next s

/-! ### The internal steps and the reset request -/

/-- R155: the retry step, selected by `st` = `RETRY`. The incremented count is compared; within the budget the attempt is cleared and the enable
call issued again, with the same frame; past it the transaction ends. -/
def Obligations.RetryStepRetriesOrEnds : Prop :=
  ∀ s : State, s.st = .retry → s.retryCnt.toNat < 255 →
    decode (.st s.st.code) = .ok .retryStep ∧
    (s.retryCnt.toNat + 1 ≤ s.cfg.val.maxRetries →
      exec .retryStep s =
        .next { s with retryCnt := s.retryCnt + 1, txIdx := 0, rxCnt := 0, rxExp := 0, st := .awaitEn,
                       phyOut := s.phyOut ++ [.enableTransmit] }) ∧
    (s.cfg.val.maxRetries < s.retryCnt.toNat + 1 →
      exec .retryStep s =
        .next { s with retryCnt := s.retryCnt + 1, st := .resolved,
                       res := some (.commFailure .retriesExhausted (s.retryCnt + 1) s.lastCause) })

/-- R157: the resolve step, selected by `st` = `RESOLVED`, reports the pending result to the owner and goes back to `IDLE`; `retry_cnt` and
`last_cause` stay. -/
def Obligations.ResolveStepReports : Prop :=
  ∀ (s : State) (c : Byte) (r : TransactionResult), s.st = .resolved → s.owner = some c → s.res = some r →
    decode (.st s.st.code) = .ok .resolveStep ∧
    exec .resolveStep s =
      .next { s with hostOut := s.hostOut ++ [(c, r)], owner := none, res := none, txIdx := 0, rxCnt := 0,
                     rxExp := 0, st := .idle }

/-- The reset request in any state, from the pseudocode of 70_reset_and_hazards.md R188. In `IDLE` it clears
`retry_cnt` and `last_cause`, which a resolve step leaves standing: the model's reading, log 21. A busy block reports `COMM_FAILURE(RESET)` with the counts as they stood;
every field but the buffers takes its reset value; a waiting result is discarded. -/
def Obligations.ResetRequestAbandons : Prop :=
  ∀ (s : State) (x : Byte), s.st.unused = false →
    (s.st = .idle →
      exec (.resetReq x) s =
        .next { s with st := .idle, owner := none, res := none, retryCnt := 0, lastCause := .none, txIdx := 0,
                       rxCnt := 0, rxExp := 0 }) ∧
    (∀ c, s.st ≠ .idle → s.owner = some c →
      exec (.resetReq x) s =
        .next { s with hostOut := s.hostOut ++ [(c, .commFailure .reset s.retryCnt s.lastCause)], st := .idle,
                       owner := none, res := none, retryCnt := 0, lastCause := .none, txIdx := 0, rxCnt := 0,
                       rxExp := 0 })

/-- An internal step asked for where `st` does not select it is refused (30_encoding.md R98; the refusal is log 4). -/
def Obligations.InternalStepsAreSelectedByState : Prop :=
  ∀ s : State, s.st.unused = false →
    (s.st ≠ .retry → exec .retryStep s = .refused .internalNotSelected) ∧
      (s.st ≠ .resolved → exec .resolveStep s = .refused .internalNotSelected)

/-! ### The wire rows -/

/-- The wire rows put their bytes in front of the schedule as `RX_BYTE` events, in index order, and change nothing else
(30_encoding.md R68, R71, R99; 20_memory.md R53; that this is their meaning is log 11). -/
def Obligations.WireBytesArriveInOrder : Prop :=
  ∀ (s : State) (dl : Byte) (a d : List Byte) (ck : Byte), s.st.unused = false →
    exec .delimStxUnique s = .next { s with inbox := responseEvents [0x82#8] ++ s.inbox } ∧
      exec (.cmd48Frame dl a d ck) s =
        .next { s with inbox := responseEvents ([dl] ++ a ++ [0x30#8, 0x08#8] ++ d ++ [ck]) ++ s.inbox }

/-- R106: every encoded frame starts with 0x82, whose fields are those of R71. -/
def Obligations.DelimiterFields : Prop :=
  delimAddressType 0x82#8 = 1#1 ∧ delimExpansion 0x82#8 = 0#2 ∧ delimPhysType 0x82#8 = 0#2 ∧
    delimFrameType 0x82#8 = 0b010#3 ∧
    ∀ (a : Address) (cmd len : Byte) (data f : List Byte), encodeFrame a cmd len data = .ok f →
      f.head? = some 0x82#8

/-- R150: a response is received in full, by its byte count, before it is judged. From a fresh `AWAIT_RSP`, the events
of any 9 + byteCount bytes are all stored, and then DECODE decides (R145). -/
def Obligations.ResponseReceivedInFull : Prop :=
  ∀ (s : State) (bytes : List Byte) (rest : List Input),
    s.st = .awaitRsp → s.rxCnt = 0 → s.rxExp = 0 → 9 ≤ bytes.length →
    bytes.length = 9 + (bytes.getD 7 0#8).toNat → s.inbox = responseEvents bytes ++ rest →
      ∃ t, runSteps bytes.length s = .next t ∧ t.inbox = rest ∧
        t.rxCnt.toNat = bytes.length ∧ (∀ j, j < bytes.length → t.rxb.read j = bytes[j]?) ∧
        t.phyOut = s.phyOut ++ List.replicate (bytes.length - 1) (.readByte s.cfg.val.deadlineNext) ∧
        (∀ df, decodeFrame bytes = .ok df → t.st = .resolved ∧
          t.res = some (.success df (diagMap s.cfg.val.flagMap df.data) s.retryCnt s.lastCause)) ∧
        (decodeFrame bytes = .error .malformedFrame → t.st = .retry ∧ t.lastCause = .malformed) ∧
        (decodeFrame bytes = .error .checksumMismatch → t.st = .retry ∧ t.lastCause = .checksum)

/-! ### The physical-layer calls -/

/-- R144, and the function of R159: the outstanding call as a function of the state. -/
def Obligations.OutstandingCallOfState : Prop :=
  ∀ s : State,
    (s.st = .awaitEn → phyCall s = .ok (some .enableTransmit)) ∧
      (∀ b, s.st = .tx → s.txIdx.toNat < 17 → s.txf.read s.txIdx.toNat = some b →
        phyCall s = .ok (some (.writeByte b))) ∧
      (s.st = .awaitRsp → s.rxCnt.toNat = 0 → phyCall s = .ok (some (.readByte s.cfg.val.deadlineFirst))) ∧
      (s.st = .awaitRsp → 1 ≤ s.rxCnt.toNat → phyCall s = .ok (some (.readByte s.cfg.val.deadlineNext))) ∧
      (s.st = .idle ∨ s.st = .retry ∨ s.st = .resolved → phyCall s = .ok none)

/-- A step issues the call of the state it reaches, once, when it advances the transaction or accepts a request, and
touches the PHY in no other case; it never calls `carrierPresent` or `reset` (43_mac_controller.md R130, R159, R160;
that a repeated call is issued anew is log 20). -/
def Obligations.CallsAreIssuedByAdvancingSteps : Prop :=
  ∀ (s t : State) (i : Instr), exec i s = .next t →
    (advances s.st i = true → ∃ c, phyCall t = .ok c ∧ t.phyOut = s.phyOut ++ c.toList) ∧
      (s.st = .idle → t.st = .awaitEn → t.phyOut = s.phyOut ++ [.enableTransmit]) ∧
      (advances s.st i = false → (s.st ≠ .idle ∨ t.st = .idle) → t.phyOut = s.phyOut) ∧
      (∀ c ∈ t.phyOut, c ∈ s.phyOut ∨ (c ≠ .carrierPresent ∧ c ≠ .reset))

/-- Nothing reads the carrier line: flip it before a step and the step ends in the same way, with the line flipped
(10_state.md R43; 43_mac_controller.md R130; the field is the model's, log 13). -/
def Obligations.CarrierIsNeverRead : Prop :=
  ∀ (s : State) (x : Bool),
    (∀ t, step s = .next t → t.carrier = s.carrier ∧ step { s with carrier := x } = .next { t with carrier := x }) ∧
      (∀ f, step s = .fault f → step { s with carrier := x } = .fault f) ∧
      (∀ r, step s = .refused r → step { s with carrier := x } = .refused r)

/-! ### Invariants and whole-machine rules -/

/-- The invariants of 10_state.md R40 and R41, with the ranges of R28, R30, R31, the filled buffers of R27, R32 and the
canonical form of the buffers (the form is the model's, log 6), are kept by every step from every state. -/
def Obligations.EveryStepKeepsTheInvariants : Prop :=
  ∀ s t : State, Inv s → step s = .next t → Inv t

/-- The invariants hold after power-on reset, for every instance (R44, R186; empty ports are log 16). -/
def Obligations.InvariantsHoldAtReset : Prop :=
  ∀ p : Config.Params, Inv (State.resetOf p)

/-- From a state with the invariants no step faults: no access leaves a buffer or reads a byte without a value, and no
result lacks an owner (20_memory.md R52; 10_state.md R32, R40, R41). -/
def Obligations.NoStepFaults : Prop :=
  ∀ (s : State) (f : Fault), Inv s → step s ≠ .fault f

/-- From a state with the invariants, whatever the ports can carry is taken: the machine goes on (R162). Shut out are
R97 and what logs 4 and 10 name. The model's choices: that wire bytes are an input taken in one step (log 11), and that a
step with nothing scheduled goes on (log 3). -/
def Obligations.EveryCarriableInputIsTaken : Prop :=
  ∀ s : State, Inv s → Carriable s → ∃ t, step s = .next t ∧ Inv t

/-- R158, with the instruction `i` that the step runs. A rejected request is answered in that step, to its own caller:
`BUSY` from a busy block, else `INVALID_PAYLOAD_LENGTH`. An accepted one makes its caller the owner, with no answer yet.
The resolve step, or a reset request to a busy block, gives the owner one final result. No other instruction, and no
input that is none, answers anybody or changes the owner. -/
def Obligations.EachRequestIsAnsweredOnce : Prop :=
  ∀ s t : State, Inv s → step s = .next t →
    (∀ (w : Raw) (s1 : State) (i : Instr), fetch s = some (w, s1) → decode w = .ok i →
      (∃ c b, i = .req c b ∧ s.st ≠ .idle ∧ t.owner = s.owner ∧ t.hostOut = s.hostOut ++ [(c, .busy)]) ∨
      (∃ c b, i = .req c b ∧ s.st = .idle ∧ (b.cmd ≠ 0x30#8 ∨ b.len ≠ 8#8) ∧ t.owner = s.owner ∧
        t.hostOut = s.hostOut ++ [(c, .invalidPayloadLength)]) ∨
      (∃ c b, i = .req c b ∧ s.st = .idle ∧ b.cmd = 0x30#8 ∧ b.len = 8#8 ∧ s.owner = none ∧ t.owner = some c ∧
        t.hostOut = s.hostOut) ∨
      (∃ c r, i = .resolveStep ∧ s.owner = some c ∧ s.res = some r ∧ endsTransaction r = true ∧ t.owner = none ∧
        t.hostOut = s.hostOut ++ [(c, r)]) ∨
      (∃ x c, i = .resetReq x ∧ s.st ≠ .idle ∧ s.owner = some c ∧ t.owner = none ∧
        t.hostOut = s.hostOut ++ [(c, .commFailure .reset s.retryCnt s.lastCause)]) ∨
      ((∀ c b, i ≠ .req c b) ∧ i ≠ .resolveStep ∧ (∀ x, i = .resetReq x → s.st = .idle) ∧ t.owner = s.owner ∧
        t.hostOut = s.hostOut)) ∧
    ((∀ w s1 i, fetch s = some (w, s1) → decode w ≠ .ok i) → t.owner = s.owner ∧ t.hostOut = s.hostOut)

/-- R153: the only ways into `RETRY`. -/
def Obligations.OnlyFailedAttemptsEnterRetry : Prop :=
  ∀ (s t : State) (i : Instr), exec i s = .next t → s.st ≠ .retry → t.st = .retry →
    (s.st = .awaitEn ∧ (∃ x, i = .txenErr x) ∧ t.lastCause = .physErr) ∨
      (s.st = .tx ∧ (∃ x, i = .wrErr x) ∧ t.lastCause = .physErr) ∨
      (s.st = .awaitRsp ∧ (∃ x, i = .rxTimeout x) ∧ t.lastCause = .timeout) ∨
      (s.st = .awaitRsp ∧ (∃ x, i = .rxErr x) ∧ t.lastCause = .physErr) ∨
      (s.st = .awaitRsp ∧ (∃ b got, i = .rxByte b ∧ t.rxExp ≠ 0 ∧ t.rxCnt = t.rxExp ∧
        readBytes .rxb t.rxb 0 t.rxCnt.toNat = .ok got ∧
        ((decodeFrame got = .error .malformedFrame ∧ t.lastCause = .malformed) ∨
          (decodeFrame got = .error .checksumMismatch ∧ t.lastCause = .checksum))))

/-- R36: no step writes the configuration. -/
def Obligations.ConfigurationIsConstant : Prop :=
  ∀ s t : State, step s = .next t → t.cfg = s.cfg

/-- The frame of the buffers: every byte of `txf` reads as before but where a `REQ` is accepted, every byte of `rxb`
but the one an `RX_BYTE` in `AWAIT_RSP` stores (10_state.md R27, R29; 20_memory.md R50, R58). -/
def Obligations.BuffersKeepTheirBytes : Prop :=
  ∀ (s t : State) (i : Instr), exec i s = .next t →
    (∀ j, t.txf.read j ≠ s.txf.read j → j < 17 ∧ s.st = .idle ∧ t.st = .awaitEn ∧ ∃ c b f, i = .req c b ∧
      encodeFrame b.addr b.cmd b.len b.data = .ok f ∧ t.txf.read j = f[j]?) ∧
      (∀ j, t.rxb.read j ≠ s.rxb.read j → j = s.rxCnt.toNat ∧ s.st = .awaitRsp ∧ ∃ b, i = .rxByte b)

/-- A function-port call that the port can carry goes on and changes no state of the block: only the answer is added
(30_encoding.md R90; 41_frame_codec.md R119; the answers' field is log 2). -/
def Obligations.FunctionCallsLeaveTheBlock : Prop :=
  ∀ (s : State) (code : Byte) (ops : FnOperands) (i : Instr) (rest : List Input),
    s.st.unused = false → s.inbox = .fn code ops :: rest → decode (.fn code ops) = .ok i →
      ∃ t a, step s = .next t ∧ sameBlock s t ∧ t.inbox = rest ∧ t.fnOut = s.fnOut ++ [a]

/-- R200: every advancing step leaves strictly less work, no other step of a busy block leaves more, and a transaction
has at most `MAX_RETRIES` + 1 attempts of 1 + 17 + 264 answered calls and one retry step, and one report. -/
def Obligations.TransactionsTerminate : Prop :=
  (∀ (s t : State) (i : Instr), Inv s → exec i s = .next t → advances s.st i = true → workLeft t < workLeft s) ∧
    (∀ (s t : State) (i : Instr), Inv s → exec i s = .next t → s.st ≠ .idle → workLeft t ≤ workLeft s) ∧
    ∀ s : State, workLeft s ≤ (s.cfg.val.maxRetries + 1) * (1 + 17 + 264 + 1) + 1

/-! ### Whole transactions -/

/-- A transaction that succeeds at once: the request, the enable, 17 writes, the 17 response bytes, the resolve step.
The caller gets `SUCCESS` with the decoded frame and its diagnostics, and these are the calls the PHY sees
(43_mac_controller.md R140, R151, R157; 95_test_vectors.md P1). -/
def Obligations.TransactionSucceeds : Prop :=
  ∀ (s : State) (c : Byte) (b : ReqBundle) (r f : List Byte) (df : DecodedFrame),
    s.st = .idle → b.wf = true → encodeFrame b.addr b.cmd b.len b.data = .ok f → decodeFrame r = .ok df →
    s.inbox =
      [.ev (evWord 0x01#8 c) b, .ev (evWord 0x02#8 0#8) ReqBundle.zero] ++
        List.replicate 17 (.ev (evWord 0x04#8 0#8) ReqBundle.zero) ++ responseEvents r ++ [.internal] →
      ∃ t, runSteps 37 s = .next t ∧ t.st = .idle ∧ t.inbox = [] ∧
        t.hostOut = s.hostOut ++ [(c, .success df (diagMap s.cfg.val.flagMap df.data) 0 .none)] ∧
        t.phyOut =
          s.phyOut ++ [.enableTransmit] ++ f.map .writeByte ++ [.readByte s.cfg.val.deadlineFirst] ++
            List.replicate 16 (.readByte s.cfg.val.deadlineNext)

/-- R154: a PHY that always times out causes exactly `MAX_RETRIES` + 1 attempts, each with the enable call and all 17
bytes of the same frame, and then `COMM_FAILURE(RETRIES_EXHAUSTED)` with `retry_cnt` = `MAX_RETRIES` + 1. -/
def Obligations.RetryBound : Prop :=
  ∀ (s : State) (c : Byte) (b : ReqBundle) (f : List Byte),
    s.st = .idle → b.wf = true → encodeFrame b.addr b.cmd b.len b.data = .ok f →
    s.inbox =
      .ev (evWord 0x01#8 c) b :: (timedOutAttempts (s.cfg.val.maxRetries + 1) ++ [.internal]) →
      ∃ t, runSteps (1 + 20 * (s.cfg.val.maxRetries + 1) + 1) s = .next t ∧ t.st = .idle ∧
        t.inbox = [] ∧
        t.hostOut =
          s.hostOut ++
            [(c, .commFailure .retriesExhausted (BitVec.ofNat 8 (s.cfg.val.maxRetries + 1)) .timeout)] ∧
        t.phyOut =
          s.phyOut ++
            (List.replicate (s.cfg.val.maxRetries + 1)
              ([.enableTransmit] ++ f.map .writeByte ++ [.readByte s.cfg.val.deadlineFirst])).flatten

/-! ### Reset and the views -/

/-- R44, R186: every field of the spec's state at power-on reset, in every instance. No byte of a buffer has a value,
no result is emitted, no call is made, and the first step waits for an event. The model's choices in it: which instance
`State.reset` is (log 5), that waiting is a step that goes on (log 3), and the empty schedule and port logs (log 16). -/
def Obligations.PowerOnReset : Prop :=
  State.reset = State.resetOf Config.defaults ∧
  ∀ p : Config.Params,
    let s := State.resetOf p
    s.st = .idle ∧ s.retryCnt = 0 ∧ s.txIdx = 0 ∧ s.rxCnt = 0 ∧ s.rxExp = 0 ∧ s.lastCause = .none ∧ s.res = none ∧
      s.owner = none ∧ (∀ j, s.txf.read j = none) ∧ (∀ j, s.rxb.read j = none) ∧ s.hostOut = [] ∧ s.phyOut = [] ∧
      phyCall s = .ok none ∧ statusWord s = 0#32 ∧ step s = .next s

/-- R38: the fields of `STATUS`, and the two code tables they carry: the encodings of `st` in R24, and those of
`last_cause` in R94, whose codes 5 to 7 are never produced. -/
def Obligations.StatusFields : Prop :=
  (MacState.idle.code = 0#3 ∧ MacState.awaitEn.code = 1#3 ∧ MacState.tx.code = 2#3 ∧ MacState.awaitRsp.code = 3#3 ∧
    MacState.retry.code = 4#3 ∧ MacState.resolved.code = 5#3 ∧ MacState.unused6.code = 6#3 ∧
    MacState.unused7.code = 7#3) ∧
  (Cause.none.code = 0#3 ∧ Cause.timeout.code = 1#3 ∧ Cause.malformed.code = 2#3 ∧ Cause.checksum.code = 3#3 ∧
    Cause.physErr.code = 4#3 ∧ ∀ c : Cause, c.code.toNat < 5) ∧
  ∀ s : State,
    (statusWord s).extractLsb' 0 3 = s.st.code ∧
      (statusWord s).getLsbD 3 = decide (s.st ≠ .idle) ∧
      (statusWord s).extractLsb' 4 3 = s.lastCause.code ∧
      (statusWord s).getLsbD 7 = decide (s.res ≠ none) ∧
      (statusWord s).extractLsb' 8 8 = s.retryCnt ∧
      (statusWord s).extractLsb' 16 5 = s.txIdx ∧
      (statusWord s).extractLsb' 21 9 = s.rxCnt ∧
      (statusWord s).extractLsb' 30 2 = 0#2

/-- R92: the fields of the result word, and that a result has diagnostics exactly when bit 6 says so. -/
def Obligations.ResultWordFields : Prop :=
  (∀ (df : DecodedFrame) (dg : Diagnostics) (n : Byte) (c : Cause),
    let w := resultWord (.success df dg n c)
    w.extractLsb' 0 2 = 0#2 ∧ w.getLsbD 2 = false ∧ w.extractLsb' 3 3 = c.code ∧ w.getLsbD 6 = true ∧
      w.getLsbD 7 = false ∧ w.extractLsb' 8 8 = n) ∧
    (∀ (r : Reason) (n : Byte) (c : Cause),
      let w := resultWord (.commFailure r n c)
      w.extractLsb' 0 2 = 1#2 ∧ w.getLsbD 2 = decide (r = .reset) ∧ w.extractLsb' 3 3 = c.code ∧
        w.getLsbD 6 = false ∧ w.getLsbD 7 = false ∧ w.extractLsb' 8 8 = n) ∧
    resultWord .busy = 0x0002#16 ∧ resultWord .invalidPayloadLength = 0x0003#16 ∧
    ∀ r : TransactionResult, (resultWord r).getLsbD 6 = r.diagnostics?.isSome

/-- A byte sequence written into a buffer reads back whole, and every other index reads as before (20_memory.md R52,
R58; a write of a sequence is the model's operation). -/
def Obligations.WrittenBytesReadBack : Prop :=
  ∀ (buf : Buffer) (m : Memory) (i : Nat) (bs : List Byte), i + bs.length ≤ buf.size →
    readBytes buf (m.writeBytes i bs) i bs.length = .ok bs ∧
      ∀ j, (j < i ∨ i + bs.length ≤ j) → (m.writeBytes i bs).read j = m.read j
end

