-- ==== Sys2Proof/Laws/Memory.lean ====
section
/-! SUPPORT. The byte buffers: a read after a write, and every memory operation keeps the canonical form. -/

namespace Sys2Proof.Machine

@[simp] theorem size_txf : Buffer.size .txf = 17 := rfl

@[simp] theorem size_rxb : Buffer.size .rxb = 264 := rfl

@[simp] theorem read_nil (i : Nat) : Memory.read [] i = none := rfl

theorem read_write_same (m : Memory) (i : Nat) (b : Byte) : (m.write i b).read i = some b := by
  induction m with
  | nil => simp [Memory.write, Memory.read]
  | cons c m ih =>
    obtain ⟨k, v⟩ := c
    simp only [Memory.write]
    split
    · simp [Memory.read]
    · split
      · simp [Memory.read]
      · rename_i h1 h2
        simp [Memory.read, ih, show ¬k = i by omega]

theorem read_write_other (m : Memory) {i j : Nat} (b : Byte) (h : j ≠ i) : (m.write i b).read j = m.read j := by
  induction m with
  | nil => simp [Memory.write, Memory.read, show ¬i = j by omega]
  | cons c m ih =>
    obtain ⟨k, v⟩ := c
    simp only [Memory.write]
    split
    · simp [Memory.read, show ¬i = j by omega]
    · split
      · rename_i h1 h2
        subst h2
        simp [Memory.read, show ¬i = j by omega]
      · simp [Memory.read, ih]

theorem read_write (m : Memory) (i j : Nat) (b : Byte) :
    (m.write i b).read j = if j = i then some b else m.read j := by
  by_cases h : j = i
  · subst h
    simp [read_write_same]
  · simp [h, read_write_other m b h]

/-- A written sequence reads back; every other index reads as before. -/
theorem read_writeBytes (m : Memory) (i j : Nat) (bs : List Byte) :
    (m.writeBytes i bs).read j = if i ≤ j ∧ j < i + bs.length then bs[j - i]? else m.read j := by
  induction bs generalizing m i with
  | nil => simp [Memory.writeBytes]
  | cons b bs ih =>
    simp only [Memory.writeBytes, ih, read_write, List.length_cons]
    by_cases h1 : j = i
    · subst h1
      simp
    · by_cases h2 : i + 1 ≤ j ∧ j < i + 1 + bs.length
      · have h3 : i ≤ j ∧ j < i + (bs.length + 1) := by omega
        have h4 : j - i = (j - (i + 1)) + 1 := by omega
        simp [h2, h3, h4]
      · have h3 : ¬(i ≤ j ∧ j < i + (bs.length + 1)) := by omega
        rw [if_neg h2, if_neg h3, if_neg h1]

theorem wfFrom_write {size : Nat} (m : Memory) {lo i : Nat} (b : Byte) (h : Memory.wfFrom size lo m = true)
    (h1 : lo ≤ i) (h2 : i < size) : Memory.wfFrom size lo (m.write i b) = true := by
  induction m generalizing lo with
  | nil => simp [Memory.write, Memory.wfFrom, h1, h2]
  | cons c m ih =>
    obtain ⟨k, v⟩ := c
    simp only [Memory.wfFrom, Bool.and_eq_true, decide_eq_true_eq] at h
    simp only [Memory.write]
    split
    · simp [Memory.wfFrom, h, h1, h2]
      omega
    · split
      · rename_i h3 h4
        subst h4
        simp [Memory.wfFrom, h]
      · simp [Memory.wfFrom, h, ih h.2 (by omega)]

/-- A byte write inside the buffer keeps the canonical form. -/
theorem write_keeps_wf {buf : Buffer} (m : Memory) {i : Nat} (b : Byte) (h : m.wf buf = true) (hi : i < buf.size) :
    (m.write i b).wf buf = true :=
  wfFrom_write m b h (Nat.zero_le i) hi

/-- A sequence write inside the buffer keeps the canonical form. -/
theorem writeBytes_keeps_wf {buf : Buffer} (m : Memory) {i : Nat} (bs : List Byte) (h : m.wf buf = true)
    (hi : i + bs.length ≤ buf.size) : (m.writeBytes i bs).wf buf = true := by
  induction bs generalizing m i with
  | nil => simpa [Memory.writeBytes] using h
  | cons b bs ih =>
    simp only [List.length_cons] at hi
    exact ih _ (write_keeps_wf m b h (by omega)) (by omega)

/-- The buffers of the reset state are in canonical form. -/
theorem reset_buffers_wf (p : Config.Params) :
    (State.resetOf p).txf.wf .txf = true ∧ (State.resetOf p).rxb.wf .rxb = true := ⟨rfl, rfl⟩

/-- What a buffer read can answer. -/
theorem readBuf_ok {buf : Buffer} {m : Memory} {i : Nat} {b : Byte} :
    readBuf buf m i = .ok b ↔ i < buf.size ∧ m.read i = some b := by
  unfold readBuf
  split
  · split <;> simp_all
  · simp_all

/-- What a buffer write can answer. -/
theorem writeBuf_ok {buf : Buffer} {m t : Memory} {i : Nat} {b : Byte} :
    writeBuf buf m i b = .ok t ↔ i < buf.size ∧ t = m.write i b := by
  unfold writeBuf
  split <;> simp_all [eq_comm]

/-- A sequence read answers when every index is inside the buffer and holds a value. -/
theorem readBytes_ok {buf : Buffer} {m : Memory} {i n : Nat} {bs : List Byte} :
    readBytes buf m i n = .ok bs ↔
      bs.length = n ∧ ∀ j, j < n → i + j < buf.size ∧ m.read (i + j) = bs[j]? := by
  induction n generalizing i bs with
  | zero =>
    simp only [readBytes, Except.ok.injEq, Nat.not_lt_zero, false_imp_iff, implies_true, and_true,
      List.length_eq_zero_iff]
    exact eq_comm
  | succ n ih =>
    simp only [readBytes]
    constructor
    · intro h
      cases hb : readBuf buf m i with
      | error e => simp [hb] at h
      | ok b =>
        cases ht : readBytes buf m (i + 1) n with
        | error e => simp [hb, ht] at h
        | ok t =>
          simp only [hb, ht, Except.ok.injEq] at h
          subst h
          obtain ⟨hl, hr⟩ := ih.mp ht
          obtain ⟨h1, h2⟩ := readBuf_ok.mp hb
          refine ⟨by simp [hl], fun j hj => ?_⟩
          cases j with
          | zero => simpa using ⟨h1, h2⟩
          | succ j =>
            have := hr j (by omega)
            simpa [Nat.add_assoc, Nat.add_comm 1 j] using this
    · rintro ⟨hl, hr⟩
      cases bs with
      | nil => simp at hl
      | cons b t =>
        have h0 := hr 0 (by omega)
        have hb : readBuf buf m i = .ok b := readBuf_ok.mpr (by simpa using h0)
        have ht : readBytes buf m (i + 1) n = .ok t := by
          refine ih.mpr ⟨by simpa using hl, fun j hj => ?_⟩
          have := hr (j + 1) (by omega)
          simpa [Nat.add_assoc, Nat.add_comm 1 j] using this
        simp [hb, ht]

end Sys2Proof.Machine
end

