-- ==== Sys2Proof/Laws/State.lean ====
section
/-! SUPPORT. One lemma per field per update of the state, so that no later proof unfolds an update. -/

namespace Sys2Proof.Machine

/-! ### The port write `emit HOST` -/

@[simp] theorem emitHost_st (c : Byte) (r : TransactionResult) (s : State) : (emitHost c r s).st = s.st := rfl
@[simp] theorem emitHost_retryCnt (c : Byte) (r : TransactionResult) (s : State) : (emitHost c r s).retryCnt = s.retryCnt := rfl
@[simp] theorem emitHost_txf (c : Byte) (r : TransactionResult) (s : State) : (emitHost c r s).txf = s.txf := rfl
@[simp] theorem emitHost_txIdx (c : Byte) (r : TransactionResult) (s : State) : (emitHost c r s).txIdx = s.txIdx := rfl
@[simp] theorem emitHost_rxb (c : Byte) (r : TransactionResult) (s : State) : (emitHost c r s).rxb = s.rxb := rfl
@[simp] theorem emitHost_rxCnt (c : Byte) (r : TransactionResult) (s : State) : (emitHost c r s).rxCnt = s.rxCnt := rfl
@[simp] theorem emitHost_rxExp (c : Byte) (r : TransactionResult) (s : State) : (emitHost c r s).rxExp = s.rxExp := rfl
@[simp] theorem emitHost_lastCause (c : Byte) (r : TransactionResult) (s : State) : (emitHost c r s).lastCause = s.lastCause := rfl
@[simp] theorem emitHost_res (c : Byte) (r : TransactionResult) (s : State) : (emitHost c r s).res = s.res := rfl
@[simp] theorem emitHost_owner (c : Byte) (r : TransactionResult) (s : State) : (emitHost c r s).owner = s.owner := rfl
@[simp] theorem emitHost_cfg (c : Byte) (r : TransactionResult) (s : State) : (emitHost c r s).cfg = s.cfg := rfl
@[simp] theorem emitHost_inbox (c : Byte) (r : TransactionResult) (s : State) : (emitHost c r s).inbox = s.inbox := rfl
@[simp] theorem emitHost_hostOut (c : Byte) (r : TransactionResult) (s : State) : (emitHost c r s).hostOut = s.hostOut ++ [(c, r)] := rfl
@[simp] theorem emitHost_phyOut (c : Byte) (r : TransactionResult) (s : State) : (emitHost c r s).phyOut = s.phyOut := rfl
@[simp] theorem emitHost_fnOut (c : Byte) (r : TransactionResult) (s : State) : (emitHost c r s).fnOut = s.fnOut := rfl
@[simp] theorem emitHost_carrier (c : Byte) (r : TransactionResult) (s : State) : (emitHost c r s).carrier = s.carrier := rfl

/-! ### `CLEAR_ATTEMPT` -/

@[simp] theorem clearAttempt_st (s : State) : (clearAttempt s).st = s.st := rfl
@[simp] theorem clearAttempt_retryCnt (s : State) : (clearAttempt s).retryCnt = s.retryCnt := rfl
@[simp] theorem clearAttempt_txf (s : State) : (clearAttempt s).txf = s.txf := rfl
@[simp] theorem clearAttempt_txIdx (s : State) : (clearAttempt s).txIdx = 0 := rfl
@[simp] theorem clearAttempt_rxb (s : State) : (clearAttempt s).rxb = s.rxb := rfl
@[simp] theorem clearAttempt_rxCnt (s : State) : (clearAttempt s).rxCnt = 0 := rfl
@[simp] theorem clearAttempt_rxExp (s : State) : (clearAttempt s).rxExp = 0 := rfl
@[simp] theorem clearAttempt_lastCause (s : State) : (clearAttempt s).lastCause = s.lastCause := rfl
@[simp] theorem clearAttempt_res (s : State) : (clearAttempt s).res = s.res := rfl
@[simp] theorem clearAttempt_owner (s : State) : (clearAttempt s).owner = s.owner := rfl
@[simp] theorem clearAttempt_cfg (s : State) : (clearAttempt s).cfg = s.cfg := rfl
@[simp] theorem clearAttempt_inbox (s : State) : (clearAttempt s).inbox = s.inbox := rfl
@[simp] theorem clearAttempt_hostOut (s : State) : (clearAttempt s).hostOut = s.hostOut := rfl
@[simp] theorem clearAttempt_phyOut (s : State) : (clearAttempt s).phyOut = s.phyOut := rfl
@[simp] theorem clearAttempt_fnOut (s : State) : (clearAttempt s).fnOut = s.fnOut := rfl
@[simp] theorem clearAttempt_carrier (s : State) : (clearAttempt s).carrier = s.carrier := rfl

/-! ### Acceptance of a request (43_mac_controller.md R133) -/

@[simp] theorem acceptRequest_st (c : Byte) (f : List Byte) (s : State) : (acceptRequest c f s).st = .awaitEn := rfl
@[simp] theorem acceptRequest_retryCnt (c : Byte) (f : List Byte) (s : State) : (acceptRequest c f s).retryCnt = 0 := rfl
@[simp] theorem acceptRequest_txf (c : Byte) (f : List Byte) (s : State) : (acceptRequest c f s).txf = s.txf.writeBytes 0 f := rfl
@[simp] theorem acceptRequest_txIdx (c : Byte) (f : List Byte) (s : State) : (acceptRequest c f s).txIdx = 0 := rfl
@[simp] theorem acceptRequest_rxb (c : Byte) (f : List Byte) (s : State) : (acceptRequest c f s).rxb = s.rxb := rfl
@[simp] theorem acceptRequest_rxCnt (c : Byte) (f : List Byte) (s : State) : (acceptRequest c f s).rxCnt = 0 := rfl
@[simp] theorem acceptRequest_rxExp (c : Byte) (f : List Byte) (s : State) : (acceptRequest c f s).rxExp = 0 := rfl
@[simp] theorem acceptRequest_lastCause (c : Byte) (f : List Byte) (s : State) : (acceptRequest c f s).lastCause = .none := rfl
@[simp] theorem acceptRequest_res (c : Byte) (f : List Byte) (s : State) : (acceptRequest c f s).res = none := rfl
@[simp] theorem acceptRequest_owner (c : Byte) (f : List Byte) (s : State) : (acceptRequest c f s).owner = some c := rfl
@[simp] theorem acceptRequest_cfg (c : Byte) (f : List Byte) (s : State) : (acceptRequest c f s).cfg = s.cfg := rfl
@[simp] theorem acceptRequest_inbox (c : Byte) (f : List Byte) (s : State) : (acceptRequest c f s).inbox = s.inbox := rfl
@[simp] theorem acceptRequest_hostOut (c : Byte) (f : List Byte) (s : State) : (acceptRequest c f s).hostOut = s.hostOut := rfl
@[simp] theorem acceptRequest_phyOut (c : Byte) (f : List Byte) (s : State) : (acceptRequest c f s).phyOut = s.phyOut := rfl
@[simp] theorem acceptRequest_fnOut (c : Byte) (f : List Byte) (s : State) : (acceptRequest c f s).fnOut = s.fnOut := rfl
@[simp] theorem acceptRequest_carrier (c : Byte) (f : List Byte) (s : State) : (acceptRequest c f s).carrier = s.carrier := rfl

/-! ### A response byte counted (R145) -/

@[simp] theorem countByte_st (b : Byte) (m : Memory) (s : State) : (countByte b m s).st = s.st := rfl
@[simp] theorem countByte_retryCnt (b : Byte) (m : Memory) (s : State) : (countByte b m s).retryCnt = s.retryCnt := rfl
@[simp] theorem countByte_txf (b : Byte) (m : Memory) (s : State) : (countByte b m s).txf = s.txf := rfl
@[simp] theorem countByte_txIdx (b : Byte) (m : Memory) (s : State) : (countByte b m s).txIdx = s.txIdx := rfl
@[simp] theorem countByte_rxb (b : Byte) (m : Memory) (s : State) : (countByte b m s).rxb = m := rfl
@[simp] theorem countByte_rxCnt (b : Byte) (m : Memory) (s : State) : (countByte b m s).rxCnt = s.rxCnt + 1 := rfl
@[simp] theorem countByte_rxExp (b : Byte) (m : Memory) (s : State) : (countByte b m s).rxExp = if s.rxCnt + 1 = 8#9 then frameLength b else s.rxExp := rfl
@[simp] theorem countByte_lastCause (b : Byte) (m : Memory) (s : State) : (countByte b m s).lastCause = s.lastCause := rfl
@[simp] theorem countByte_res (b : Byte) (m : Memory) (s : State) : (countByte b m s).res = s.res := rfl
@[simp] theorem countByte_owner (b : Byte) (m : Memory) (s : State) : (countByte b m s).owner = s.owner := rfl
@[simp] theorem countByte_cfg (b : Byte) (m : Memory) (s : State) : (countByte b m s).cfg = s.cfg := rfl
@[simp] theorem countByte_inbox (b : Byte) (m : Memory) (s : State) : (countByte b m s).inbox = s.inbox := rfl
@[simp] theorem countByte_hostOut (b : Byte) (m : Memory) (s : State) : (countByte b m s).hostOut = s.hostOut := rfl
@[simp] theorem countByte_phyOut (b : Byte) (m : Memory) (s : State) : (countByte b m s).phyOut = s.phyOut := rfl
@[simp] theorem countByte_fnOut (b : Byte) (m : Memory) (s : State) : (countByte b m s).fnOut = s.fnOut := rfl
@[simp] theorem countByte_carrier (b : Byte) (m : Memory) (s : State) : (countByte b m s).carrier = s.carrier := rfl

/-! ### The state after a report (R157) -/

@[simp] theorem afterReport_st (s : State) : (afterReport s).st = .idle := rfl
@[simp] theorem afterReport_retryCnt (s : State) : (afterReport s).retryCnt = s.retryCnt := rfl
@[simp] theorem afterReport_txf (s : State) : (afterReport s).txf = s.txf := rfl
@[simp] theorem afterReport_txIdx (s : State) : (afterReport s).txIdx = 0 := rfl
@[simp] theorem afterReport_rxb (s : State) : (afterReport s).rxb = s.rxb := rfl
@[simp] theorem afterReport_rxCnt (s : State) : (afterReport s).rxCnt = 0 := rfl
@[simp] theorem afterReport_rxExp (s : State) : (afterReport s).rxExp = 0 := rfl
@[simp] theorem afterReport_lastCause (s : State) : (afterReport s).lastCause = s.lastCause := rfl
@[simp] theorem afterReport_res (s : State) : (afterReport s).res = none := rfl
@[simp] theorem afterReport_owner (s : State) : (afterReport s).owner = none := rfl
@[simp] theorem afterReport_cfg (s : State) : (afterReport s).cfg = s.cfg := rfl
@[simp] theorem afterReport_inbox (s : State) : (afterReport s).inbox = s.inbox := rfl
@[simp] theorem afterReport_hostOut (s : State) : (afterReport s).hostOut = s.hostOut := rfl
@[simp] theorem afterReport_phyOut (s : State) : (afterReport s).phyOut = s.phyOut := rfl
@[simp] theorem afterReport_fnOut (s : State) : (afterReport s).fnOut = s.fnOut := rfl
@[simp] theorem afterReport_carrier (s : State) : (afterReport s).carrier = s.carrier := rfl

/-! ### What RESET_REQ writes (70_reset_and_hazards.md R188) -/

@[simp] theorem clearForReset_st (s : State) : (clearForReset s).st = .idle := rfl
@[simp] theorem clearForReset_retryCnt (s : State) : (clearForReset s).retryCnt = 0 := rfl
@[simp] theorem clearForReset_txf (s : State) : (clearForReset s).txf = s.txf := rfl
@[simp] theorem clearForReset_txIdx (s : State) : (clearForReset s).txIdx = 0 := rfl
@[simp] theorem clearForReset_rxb (s : State) : (clearForReset s).rxb = s.rxb := rfl
@[simp] theorem clearForReset_rxCnt (s : State) : (clearForReset s).rxCnt = 0 := rfl
@[simp] theorem clearForReset_rxExp (s : State) : (clearForReset s).rxExp = 0 := rfl
@[simp] theorem clearForReset_lastCause (s : State) : (clearForReset s).lastCause = .none := rfl
@[simp] theorem clearForReset_res (s : State) : (clearForReset s).res = none := rfl
@[simp] theorem clearForReset_owner (s : State) : (clearForReset s).owner = none := rfl
@[simp] theorem clearForReset_cfg (s : State) : (clearForReset s).cfg = s.cfg := rfl
@[simp] theorem clearForReset_inbox (s : State) : (clearForReset s).inbox = s.inbox := rfl
@[simp] theorem clearForReset_hostOut (s : State) : (clearForReset s).hostOut = s.hostOut := rfl
@[simp] theorem clearForReset_phyOut (s : State) : (clearForReset s).phyOut = s.phyOut := rfl
@[simp] theorem clearForReset_fnOut (s : State) : (clearForReset s).fnOut = s.fnOut := rfl
@[simp] theorem clearForReset_carrier (s : State) : (clearForReset s).carrier = s.carrier := rfl

end Sys2Proof.Machine
end

