-- ==== Sys2Proof/Laws/Ops.lean ====
section
/-! SUPPORT. For each shared operation, what it can do: cited by every later proof instead of unfolding it. -/

namespace Sys2Proof.Machine

/-! ### The legality guard and the stray rule -/

theorem inLegalState_of_legal {s : State} (h : s.st.unused = false) (k : Out) : inLegalState s k = k := by
  simp [inLegalState, h]

theorem inLegalState_of_unused {s : State} (h : s.st.unused = true) (k : Out) :
    inLegalState s k = .refused .unusedState := by
  simp [inLegalState, h]

theorem inLegalState_next {s t : State} {k : Out} :
    inLegalState s k = .next t ↔ s.st.unused = false ∧ k = .next t := by
  unfold inLegalState
  cases h : s.st.unused <;> simp

theorem inLegalState_fault {s : State} {k : Out} {f : Fault} :
    inLegalState s k = .fault f ↔ s.st.unused = false ∧ k = .fault f := by
  unfold inLegalState
  cases h : s.st.unused <;> simp

/-- Where the event answers the outstanding call. -/
theorem onAnswer_expected {e : MacState} {s : State} (h : s.st = e) (hl : e.unused = false) (k : Out) :
    onAnswer e s k = k := by
  subst h
  simp [onAnswer, inLegalState, hl]

/-- Where it does not, it is dropped. -/
theorem onAnswer_stray {e : MacState} {s : State} (h : s.st ≠ e) (hl : s.st.unused = false) (k : Out) :
    onAnswer e s k = .next s := by
  simp [onAnswer, inLegalState, h, hl]

/-- All that `onAnswer` can do when it goes on. -/
theorem onAnswer_next {e : MacState} {s t : State} {k : Out} :
    onAnswer e s k = .next t ↔
      s.st.unused = false ∧ ((s.st = e ∧ k = .next t) ∨ (s.st ≠ e ∧ t = s)) := by
  unfold onAnswer
  rw [inLegalState_next]
  by_cases h : s.st = e
  · simp [h]
  · simp only [h, if_false, Host.Outcome.next.injEq, false_and, not_false_eq_true, true_and, false_or, ne_eq]
    exact and_congr_right fun _ => eq_comm

theorem onAnswer_fault {e : MacState} {s : State} {k : Out} {f : Fault} :
    onAnswer e s k = .fault f ↔ s.st.unused = false ∧ s.st = e ∧ k = .fault f := by
  unfold onAnswer
  rw [inLegalState_fault]
  by_cases h : s.st = e
  · simp [h]
  · simp [h]

/-! ### The function port -/

theorem answerFn_next {a : FnAnswer} {s t : State} :
    answerFn a s = .next t ↔ s.st.unused = false ∧ t = { s with fnOut := s.fnOut ++ [a] } := by
  unfold answerFn
  rw [inLegalState_next, Host.Outcome.next.injEq]
  exact and_congr_right fun _ => eq_comm

/-! ### The outstanding call -/

theorem phyCall_none {s : State} (h : Safety.waitsForPhy s.st = false) : phyCall s = .ok none := by
  unfold phyCall
  revert h
  cases s.st <;> simp [Safety.waitsForPhy]

theorem phyCall_awaitEn {s : State} (h : s.st = .awaitEn) : phyCall s = .ok (some .enableTransmit) := by
  simp [phyCall, h]

theorem phyCall_tx {s : State} {b : Byte} (h : s.st = .tx) (hb : readBuf .txf s.txf s.txIdx.toNat = .ok b) :
    phyCall s = .ok (some (.writeByte b)) := by
  simp [phyCall, h, hb]

theorem phyCall_awaitRsp {s : State} (h : s.st = .awaitRsp) :
    phyCall s = .ok (some (.readByte (if s.rxCnt = 0 then s.cfg.val.deadlineFirst else s.cfg.val.deadlineNext))) := by
  simp [phyCall, h]

/-- All that `issueCall` can do when it goes on: it appends the outstanding call, if any, to `phyOut`. -/
theorem issueCall_next {s t : State} :
    issueCall s = .next t ↔ ∃ c, phyCall s = .ok c ∧ t = { s with phyOut := s.phyOut ++ c.toList } := by
  unfold issueCall
  cases h : phyCall s with
  | error e => simp
  | ok c =>
    cases c with
    | none => simpa using eq_comm
    | some c => simpa using eq_comm

/-- It stops only where the byte to send holds no value. -/
theorem issueCall_fault {s : State} {f : Fault} : issueCall s = .fault f ↔ phyCall s = .error f := by
  unfold issueCall
  cases h : phyCall s with
  | error e => simp
  | ok c => cases c <;> simp

/-- With a call to issue, it answers the state with the call appended. -/
theorem issueCall_of_call {s : State} {c : PhyCall} (h : phyCall s = .ok (some c)) :
    issueCall s = .next { s with phyOut := s.phyOut ++ [c] } := by
  simp [issueCall, h]

/-- With none, it answers the state itself. -/
theorem issueCall_of_none {s : State} (h : phyCall s = .ok none) : issueCall s = .next s := by
  simp [issueCall, h]

/-! ### Error entry and return -/

/-- Error entry always goes on, and writes `last_cause` and `st` only (60_exceptions.md R170). -/
theorem failAttempt_eq (c : Cause) (s : State) :
    failAttempt c s = .next { s with lastCause := c, st := .retry } :=
  issueCall_of_none (phyCall_none rfl)

/-- The retry step within the budget (43_mac_controller.md R155). -/
theorem returnFromError_again {s : State} (h : (s.retryCnt + 1).toNat ≤ s.cfg.val.maxRetries) :
    returnFromError s =
      .next { s with retryCnt := s.retryCnt + 1, txIdx := 0, rxCnt := 0, rxExp := 0, st := .awaitEn,
                     phyOut := s.phyOut ++ [.enableTransmit] } := by
  unfold returnFromError
  rw [if_pos (by simpa using h)]
  exact issueCall_of_call (phyCall_awaitEn rfl)

/-- The retry step past the budget (R155). -/
theorem returnFromError_end {s : State} (h : ¬(s.retryCnt + 1).toNat ≤ s.cfg.val.maxRetries) :
    returnFromError s =
      .next { s with retryCnt := s.retryCnt + 1,
                     res := some (.commFailure .retriesExhausted (s.retryCnt + 1) s.lastCause),
                     st := .resolved } := by
  unfold returnFromError
  rw [if_neg (by simpa using h)]
  exact issueCall_of_none (phyCall_none rfl)

/-- The retry step always goes on. -/
theorem returnFromError_total (s : State) : ∃ t, returnFromError s = .next t := by
  by_cases h : (s.retryCnt + 1).toNat ≤ s.cfg.val.maxRetries
  · exact ⟨_, returnFromError_again h⟩
  · exact ⟨_, returnFromError_end h⟩

/-! ### The wire -/

theorem deliverWire_next {bs : List Byte} {s t : State} :
    deliverWire bs s = .next t ↔
      s.st.unused = false ∧ t = { s with inbox := Safety.responseEvents bs ++ s.inbox } := by
  unfold deliverWire Safety.responseEvents
  rw [inLegalState_next, Host.Outcome.next.injEq]
  exact and_congr_right fun _ => eq_comm

/-! ### The step -/

theorem step_of_fetch {s s1 : State} {w : Raw} (h : fetch s = some (w, s1)) : step s = runRaw w s1 := by
  simp [step, h]

theorem runRaw_of_decode {s : State} {w : Raw} {i : Instr} (h : decode w = .ok i) : runRaw w s = exec i s := by
  simp [runRaw, h]

theorem runRaw_of_reject {s : State} {w : Raw} {e : Reject} (h : decode w = .error e) :
    runRaw w s = rejected e s := by
  simp [runRaw, h]

/-- Taking an input changes the schedule only. -/
theorem fetch_some {s s1 : State} {w : Raw} (h : fetch s = some (w, s1)) :
    s1 = { s with inbox := s1.inbox } := by
  unfold fetch at h
  split at h
  · split at h <;> simp_all
  all_goals
    simp only [Option.some.injEq, Prod.mk.injEq] at h
    rw [← h.2]

/-- All that a step can do when it goes on: the block waits; or an instruction ran; or an input that is no row of the
table was dropped or delivered. -/
theorem step_next {s t : State} (h : step s = .next t) :
    (fetch s = none ∧ s.st.unused = false ∧ t = s) ∨
      ∃ w s1, fetch s = some (w, s1) ∧
        ((∃ i, decode w = .ok i ∧ exec i s1 = .next t) ∨ (∃ e, decode w = .error e ∧ rejected e s1 = .next t)) := by
  unfold step at h
  split at h
  · rename_i hf
    rw [waitForEvent, inLegalState_next] at h
    simp only [Host.Outcome.next.injEq] at h
    exact .inl ⟨hf, h.1, h.2.symm⟩
  · rename_i w s1 hf
    refine .inr ⟨w, s1, hf, ?_⟩
    unfold runRaw at h
    split at h
    · exact .inl ⟨_, by assumption, h⟩
    · exact .inr ⟨_, by assumption, h⟩

/-- An input that is no row changes nothing but the schedule, when the step goes on. -/
theorem rejected_next {e : Reject} {s t : State} (h : rejected e s = .next t) :
    s.st.unused = false ∧ t = { s with inbox := t.inbox } := by
  unfold rejected at h
  split at h
  case h_1 =>
    rw [inLegalState_next] at h
    simp only [Host.Outcome.next.injEq] at h
    obtain ⟨h1, rfl⟩ := h
    exact ⟨h1, rfl⟩
  case h_6 =>
    rw [deliverWire_next] at h
    obtain ⟨h1, rfl⟩ := h
    exact ⟨h1, rfl⟩
  all_goals
    rw [inLegalState_next] at h
    simp at h

/-- The invariants do not depend on the schedule. -/
theorem inv_with_inbox {s : State} (h : Safety.Inv s) (inb : List Input) : Safety.Inv { s with inbox := inb } := by
  obtain ⟨h1, h2, h3, h4, h5, h6, h7, h8, h9, h10, h11, h12, h13, h14, h15, h16, h17⟩ := h
  constructor <;> assumption

/-! ### Runs -/

theorem core_run_succ (M : Host.Core) {s t : M.State} (h : M.step s = .next t) (k : Nat) :
    M.run (k + 1) s = M.run k t := by
  simp [Host.Core.run, h]

theorem core_run_succ_inv (M : Host.Core) {s t : M.State} {k : Nat} (h : M.run (k + 1) s = .next t) :
    ∃ s', M.step s = .next s' ∧ M.run k s' = .next t := by
  simp only [Host.Core.run] at h
  cases hs : M.step s with
  | next s' => exact ⟨s', rfl, by simpa [hs] using h⟩
  | fault r => simp [hs] at h
  | refused r => simp [hs] at h

@[simp] theorem runSteps_zero (s : State) : Safety.runSteps 0 s = .next s := rfl

/-- A run takes its first step, then runs on. -/
theorem runSteps_of_step {s t : State} (h : step s = .next t) (k : Nat) :
    Safety.runSteps (k + 1) s = Safety.runSteps k t :=
  core_run_succ Sys2Proof.core h k

/-- A run of `j + k` steps is a run of `j`, then of `k`. -/
theorem runSteps_add {s t : State} (j k : Nat) (h : Safety.runSteps j s = .next t) :
    Safety.runSteps (j + k) s = Safety.runSteps k t := by
  induction j generalizing s with
  | zero =>
    rw [runSteps_zero, Host.Outcome.next.injEq] at h
    rw [h, Nat.zero_add]
  | succ j ih =>
    obtain ⟨s', h1, h2⟩ := core_run_succ_inv Sys2Proof.core h
    rw [Nat.add_right_comm, runSteps_of_step h1]
    exact ih h2

end Sys2Proof.Machine
end

