-- ==== Sys2Proof/Laws/Moves.lean ====
section
/-! SUPPORT. Everything an instruction can do when it goes on, said once: the transition table of
43_mac_controller.md R162 with the function port and the wire. Later proofs split on `Moves` and never unfold `exec`. -/

namespace Sys2Proof.Machine

open Sys2Proof.Safety

/-- The state a response byte leaves before the frame is judged. -/
abbrev stored (b : Byte) (s : State) : State := countByte b (s.rxb.write s.rxCnt.toNat b) s

/-- The transitions, one constructor per entry of the table. -/
inductive Moves (s : State) : Instr → State → Prop
  | stray {i : Instr} (h : stray s.st i = true) : Moves s i s
  | reqBusy {c : Byte} {b : ReqBundle} (h : s.st ≠ .idle) : Moves s (.req c b) (emitHost c .busy s)
  | reqRejected {c : Byte} {b : ReqBundle} (h : s.st = .idle)
      (hf : encodeFrame b.addr b.cmd b.len b.data = .error .invalidPayloadLength) :
      Moves s (.req c b) (emitHost c .invalidPayloadLength s)
  | reqAccepted {c : Byte} {b : ReqBundle} {f : List Byte} (h : s.st = .idle)
      (hf : encodeFrame b.addr b.cmd b.len b.data = .ok f) :
      Moves s (.req c b) { acceptRequest c f s with phyOut := s.phyOut ++ [.enableTransmit] }
  | enabled {x b0 : Byte} (h : s.st = .awaitEn) (hb : s.txf.read 0 = some b0) :
      Moves s (.txenOk x) { s with txIdx := 0, st := .tx, phyOut := s.phyOut ++ [.writeByte b0] }
  | enableFailed {x : Byte} (h : s.st = .awaitEn) :
      Moves s (.txenErr x) { s with lastCause := .physErr, st := .retry }
  | byteWritten {x b : Byte} (h : s.st = .tx) (hn : s.txIdx + 1 ≠ 17#5) (hl : (s.txIdx + 1).toNat < 17)
      (hb : s.txf.read (s.txIdx + 1).toNat = some b) :
      Moves s (.wrOk x) { s with txIdx := s.txIdx + 1, phyOut := s.phyOut ++ [.writeByte b] }
  | frameWritten {x : Byte} (h : s.st = .tx) (hn : s.txIdx + 1 = 17#5) :
      Moves s (.wrOk x) { s with txIdx := s.txIdx + 1, rxCnt := 0, rxExp := 0, st := .awaitRsp,
                                 phyOut := s.phyOut ++ [.readByte s.cfg.val.deadlineFirst] }
  | writeFailed {x : Byte} (h : s.st = .tx) : Moves s (.wrErr x) { s with lastCause := .physErr, st := .retry }
  | byteReceived {b : Byte} (h : s.st = .awaitRsp) (hl : s.rxCnt.toNat < 264)
      (hc : frameComplete (stored b s) = false) {c : PhyCall} (hp : phyCall (stored b s) = .ok (some c)) :
      Moves s (.rxByte b) { stored b s with phyOut := s.phyOut ++ [c] }
  | frameAccepted {b : Byte} {got : List Byte} {df : DecodedFrame} (h : s.st = .awaitRsp) (hl : s.rxCnt.toNat < 264)
      (hc : frameComplete (stored b s) = true)
      (hg : readBytes .rxb (stored b s).rxb 0 (stored b s).rxCnt.toNat = .ok got) (hd : decodeFrame got = .ok df) :
      Moves s (.rxByte b)
        { stored b s with
          res := some (.success df (diagMap s.cfg.val.flagMap df.data) s.retryCnt s.lastCause), st := .resolved }
  | frameRefused {b : Byte} {got : List Byte} {e : FrameError} (h : s.st = .awaitRsp) (hl : s.rxCnt.toNat < 264)
      (hc : frameComplete (stored b s) = true)
      (hg : readBytes .rxb (stored b s).rxb 0 (stored b s).rxCnt.toNat = .ok got) (hd : decodeFrame got = .error e) :
      Moves s (.rxByte b) { stored b s with lastCause := causeOfFrameError e, st := .retry }
  | timedOut {x : Byte} (h : s.st = .awaitRsp) : Moves s (.rxTimeout x) { s with lastCause := .timeout, st := .retry }
  | readFailed {x : Byte} (h : s.st = .awaitRsp) : Moves s (.rxErr x) { s with lastCause := .physErr, st := .retry }
  | resetIdle {x : Byte} (h : s.st = .idle) : Moves s (.resetReq x) (clearForReset s)
  | resetBusy {x c : Byte} (h : s.st ≠ .idle) (ho : s.owner = some c) :
      Moves s (.resetReq x) (clearForReset (emitHost c (.commFailure .reset s.retryCnt s.lastCause) s))
  | answered {i : Instr} (a : FnAnswer) (h : ∃ code ops, encode i = .fn code ops) :
      Moves s i { s with fnOut := s.fnOut ++ [a] }
  | retryAgain (h : s.st = .retry) (hb : (s.retryCnt + 1).toNat ≤ s.cfg.val.maxRetries) :
      Moves s .retryStep
        { s with retryCnt := s.retryCnt + 1, txIdx := 0, rxCnt := 0, rxExp := 0, st := .awaitEn,
                 phyOut := s.phyOut ++ [.enableTransmit] }
  | retryEnd (h : s.st = .retry) (hb : ¬(s.retryCnt + 1).toNat ≤ s.cfg.val.maxRetries) :
      Moves s .retryStep
        { s with retryCnt := s.retryCnt + 1,
                 res := some (.commFailure .retriesExhausted (s.retryCnt + 1) s.lastCause), st := .resolved }
  | reported {c : Byte} {r : TransactionResult} (h : s.st = .resolved) (ho : s.owner = some c) (hr : s.res = some r) :
      Moves s .resolveStep (afterReport (emitHost c r s))
  | delivered {i : Instr} (bs : List Byte) (h : ∃ bytes, encode i = .wire bytes) :
      Moves s i { s with inbox := responseEvents bs ++ s.inbox }

theorem execReq_moves {c : Byte} {b : ReqBundle} {s t : State} (h : execReq c b s = .next t) :
    Moves s (.req c b) t := by
  rw [execReq, inLegalState_next] at h
  obtain ⟨-, h⟩ := h
  by_cases hi : s.st = .idle
  · simp only [busy, hi, bne_self_eq_false, Bool.false_eq_true, if_false, requestInIdle] at h
    split at h
    · rename_i f hf
      obtain ⟨c', hc, rfl⟩ := issueCall_next.mp h
      rw [phyCall_awaitEn rfl] at hc
      cases hc
      exact .reqAccepted hi hf
    · cases h
      exact .reqRejected hi (by assumption)
  · simp only [busy, bne_iff_ne, ne_eq, hi, not_false_eq_true, if_true] at h
    cases h
    exact .reqBusy hi

/-- A failing answer: dropped, or the attempt fails (43_mac_controller.md R138, R141, R146, R147, R161). -/
theorem failing_moves {i : Instr} {e : MacState} {c : Cause} {s t : State}
    (hs : s.st ≠ e → stray s.st i = true)
    (hm : s.st = e → Moves s i { s with lastCause := c, st := .retry })
    (h : onAnswer e s (failAttempt c s) = .next t) : Moves s i t := by
  obtain ⟨-, ⟨he, h⟩ | ⟨he, rfl⟩⟩ := onAnswer_next.mp h
  · rw [failAttempt_eq] at h
    cases h
    exact hm he
  · exact .stray (hs he)

theorem execTxenOk_moves {x : Byte} {s t : State} (h : execTxenOk x s = .next t) : Moves s (.txenOk x) t := by
  obtain ⟨-, ⟨he, h⟩ | ⟨he, rfl⟩⟩ := onAnswer_next.mp h
  · obtain ⟨c, hc, rfl⟩ := issueCall_next.mp h
    cases hb : readBuf .txf s.txf (0 : BitVec 5).toNat with
    | error e => simp only [phyCall, hb] at hc; cases hc
    | ok b =>
      simp only [phyCall, hb] at hc
      cases hc
      exact .enabled he (readBuf_ok.mp hb).2
  · exact .stray (by simpa [stray] using he)

theorem execWrOk_moves {x : Byte} {s t : State} (h : execWrOk x s = .next t) : Moves s (.wrOk x) t := by
  obtain ⟨-, ⟨he, h⟩ | ⟨he, rfl⟩⟩ := onAnswer_next.mp h
  · by_cases hn : s.txIdx + 1 = 17#5
    · simp only [hn, if_true] at h
      obtain ⟨c, hc, rfl⟩ := issueCall_next.mp h
      rw [phyCall_awaitRsp rfl, if_pos rfl] at hc
      cases hc
      simpa only [hn, Option.toList_some] using Moves.frameWritten (x := x) he hn
    · simp only [hn, if_false] at h
      obtain ⟨c, hc, rfl⟩ := issueCall_next.mp h
      cases hb : readBuf .txf s.txf (s.txIdx + 1).toNat with
      | error e => simp only [phyCall, he, hb] at hc; cases hc
      | ok b =>
        simp only [phyCall, he, hb] at hc
        cases hc
        exact .byteWritten he hn (readBuf_ok.mp hb).1 (readBuf_ok.mp hb).2
  · exact .stray (by simpa [stray] using he)

theorem execRxByte_moves {b : Byte} {s t : State} (h : execRxByte b s = .next t) : Moves s (.rxByte b) t := by
  obtain ⟨-, ⟨he, h⟩ | ⟨he, rfl⟩⟩ := onAnswer_next.mp h
  · unfold receiveByte at h
    split at h
    · cases h
    · rename_i mem hw
      obtain ⟨hl, rfl⟩ := writeBuf_ok.mp hw
      by_cases hc : frameComplete (stored b s) = true
      · simp only [hc, if_true] at h
        split at h
        · cases h
        · rename_i got hg
          unfold completeResponse at h
          split at h
          · rename_i df hd
            rw [issueCall_of_none (phyCall_none rfl)] at h
            cases h
            exact .frameAccepted he hl hc hg hd
          · rename_i e hd
            rw [failAttempt_eq] at h
            cases h
            exact .frameRefused he hl hc hg hd
      · simp only [hc] at h
        obtain ⟨c, hp, rfl⟩ := issueCall_next.mp h
        cases c with
        | none => rw [phyCall_awaitRsp (s := stored b s) he] at hp; cases hp
        | some c => exact .byteReceived he hl (by simpa using hc) hp
  · exact .stray (by simpa [stray] using he)

theorem execResetReq_moves {x : Byte} {s t : State} (h : execResetReq x s = .next t) : Moves s (.resetReq x) t := by
  rw [execResetReq, inLegalState_next] at h
  obtain ⟨-, h⟩ := h
  by_cases hi : s.st = .idle
  · simp only [busy, hi, bne_self_eq_false, Bool.false_eq_true, if_false] at h
    cases h
    exact .resetIdle hi
  · simp only [busy, bne_iff_ne, ne_eq, hi, not_false_eq_true, if_true, abandon] at h
    split at h
    · cases h
      exact .resetBusy hi (by assumption)
    · cases h

theorem answerFn_moves {i : Instr} {a : FnAnswer} {s t : State} (hi : ∃ code ops, encode i = .fn code ops)
    (h : answerFn a s = .next t) : Moves s i t := by
  obtain ⟨-, rfl⟩ := answerFn_next.mp h
  exact .answered a hi

theorem execRetryStep_moves {s t : State} (h : execRetryStep s = .next t) : Moves s .retryStep t := by
  rw [execRetryStep, inLegalState_next] at h
  obtain ⟨-, h⟩ := h
  split at h
  · rename_i hs
    by_cases hb : (s.retryCnt + 1).toNat ≤ s.cfg.val.maxRetries
    · rw [returnFromError_again hb] at h
      cases h
      exact .retryAgain hs hb
    · rw [returnFromError_end hb] at h
      cases h
      exact .retryEnd hs hb
  · cases h

theorem execResolveStep_moves {s t : State} (h : execResolveStep s = .next t) : Moves s .resolveStep t := by
  rw [execResolveStep, inLegalState_next] at h
  obtain ⟨-, h⟩ := h
  split at h
  · rename_i hs
    unfold reportResult at h
    split at h
    · cases h
      exact .reported hs (by assumption) (by assumption)
    · cases h
    · cases h
  · cases h

theorem deliverWire_moves {i : Instr} {bs : List Byte} {s t : State} (hi : ∃ bytes, encode i = .wire bytes)
    (h : deliverWire bs s = .next t) : Moves s i t := by
  obtain ⟨-, rfl⟩ := deliverWire_next.mp h
  exact .delivered bs hi

/-- Every instruction that goes on makes one of the moves, from a legal state. -/
theorem exec_moves {i : Instr} {s t : State} (h : exec i s = .next t) : Moves s i t := by
  cases i with
  | req c b => exact execReq_moves h
  | txenOk x => exact execTxenOk_moves h
  | txenErr x => exact failing_moves (fun he => by simpa [stray] using he) .enableFailed h
  | wrOk x => exact execWrOk_moves h
  | wrErr x => exact failing_moves (fun he => by simpa [stray] using he) .writeFailed h
  | rxByte b => exact execRxByte_moves h
  | rxTimeout x => exact failing_moves (fun he => by simpa [stray] using he) .timedOut h
  | rxErr x => exact failing_moves (fun he => by simpa [stray] using he) .readFailed h
  | resetReq x => exact execResetReq_moves h
  | bfTest b m => exact answerFn_moves ⟨_, _, rfl⟩ h
  | bfSet b m => exact answerFn_moves ⟨_, _, rfl⟩ h
  | xorFold bs =>
    simp only [exec, execXorFold] at h
    split at h
    · exact answerFn_moves ⟨_, _, rfl⟩ h
    · cases h
  | encodeFn a c l d =>
    simp only [exec, execEncode] at h
    split at h <;> exact answerFn_moves ⟨_, _, rfl⟩ h
  | decodeFn bs =>
    simp only [exec, execDecode] at h
    split at h
    · split at h <;> exact answerFn_moves ⟨_, _, rfl⟩ h
    · cases h
  | diagMap d =>
    simp only [exec, execDiagMap] at h
    split at h
    · exact answerFn_moves ⟨_, _, rfl⟩ h
    · cases h
  | retryStep => exact execRetryStep_moves h
  | resolveStep => exact execResolveStep_moves h
  | delimStxUnique => exact deliverWire_moves ⟨_, rfl⟩ h
  | cmd48Frame dl a d ck => exact deliverWire_moves ⟨_, rfl⟩ h

end Sys2Proof.Machine
end

