-- ==== Sys2Proof/Laws/Words.lean ====
section
/-! SUPPORT. The two halves of an event word (30_encoding.md R88). -/

namespace Sys2Proof

theorem getLsbD_evWord (c x : Byte) (j : Nat) :
    (evWord c x).getLsbD j = if j < 8 then x.getLsbD j else c.getLsbD (j - 8) :=
  BitVec.getLsbD_append

@[simp] theorem evCode_evWord (c x : Byte) : evCode (evWord c x) = c := by
  apply BitVec.eq_of_getLsbD_eq
  intro j hj
  simp [evCode, getLsbD_evWord, hj]

@[simp] theorem evOperand_evWord (c x : Byte) : evOperand (evWord c x) = x := by
  apply BitVec.eq_of_getLsbD_eq
  intro j hj
  simp [evOperand, getLsbD_evWord, hj]

/-- An event word is its code and its operand. -/
theorem evWord_of_parts (w : U16) : evWord (evCode w) (evOperand w) = w := by
  apply BitVec.eq_of_getLsbD_eq
  intro j hj
  rw [getLsbD_evWord]
  by_cases h : j < 8
  · simp [h, evOperand]
  · simp only [h, if_false, evCode, BitVec.getLsbD_extractLsb']
    have h1 : j - 8 < 8 := by omega
    have h2 : 8 + (j - 8) = j := by omega
    simp [h1, h2]

end Sys2Proof
end

