-- ==== Sys2Proof/Laws/PerInstr.lean ====
section
/-! SUPPORT. Statements about every instruction as syntax, one lemma per constructor. `TableMatch`: the words of an
instruction are the words of its row in spec/opcode_table.json, whatever its operands. -/

namespace Sys2Proof.Laws.TableMatch

open Sys2Proof

/-- The row of the table a constructor stands for. -/
def mnemonic : Instr → String
  | .req _ _ => "REQ"
  | .txenOk _ => "TXEN_OK"
  | .txenErr _ => "TXEN_ERR"
  | .wrOk _ => "WR_OK"
  | .wrErr _ => "WR_ERR"
  | .rxByte _ => "RX_BYTE"
  | .rxTimeout _ => "RX_TIMEOUT"
  | .rxErr _ => "RX_ERR"
  | .resetReq _ => "RESET_REQ"
  | .bfTest _ _ => "BF_TEST"
  | .bfSet _ _ => "BF_SET"
  | .xorFold _ => "XOR_FOLD"
  | .encodeFn _ _ _ _ => "ENCODE"
  | .decodeFn _ => "DECODE"
  | .diagMap _ => "DIAG_MAP"
  | .retryStep => "RETRY_STEP"
  | .resolveStep => "RESOLVE_STEP"
  | .delimStxUnique => "DELIM_STX_UNIQUE"
  | .cmd48Frame _ _ _ _ => "CMD48_FRAME"

/-- The bits of an input that its row fixes: an event's code, a function's code, `st`, the delimiter byte, or bytes 6
and 7 of a frame, as `value` under `mask` in the row's numbering. -/
def fixedBits : Raw → Nat
  | .ev evw _ => (evCode evw).toNat * 2 ^ 8
  | .fn code _ => code.toNat
  | .st bits => bits.toNat
  | .wire bytes =>
    if bytes.length = 1 then (bytes.getD 0 0#8).toNat
    else (bytes.getD 6 0#8).toNat * 2 ^ 48 + (bytes.getD 7 0#8).toNat * 2 ^ 56

/-- The row in the table with this mnemonic has these fixed bits. -/
def inTable (m : String) (bits : Nat) : Bool :=
  opcodeTable.any fun r => r.mnemonic == m && r.value == bits

/-- The words of a well-formed instruction have the fixed bits of its row. -/
def Statement (i : Instr) : Prop := i.wf = true → inTable (mnemonic i) (fixedBits (encode i)) = true

theorem event (m : String) (c x : Byte) (b : ReqBundle) (h : inTable m (c.toNat * 2 ^ 8) = true) :
    inTable m (fixedBits (.ev (evWord c x) b)) = true := by
  simpa only [fixedBits, evCode_evWord] using h

theorem req (c : Byte) (b : ReqBundle) : Statement (.req c b) := fun _ => event _ _ _ _ rfl
theorem txenOk (x : Byte) : Statement (.txenOk x) := fun _ => event _ _ _ _ rfl
theorem txenErr (x : Byte) : Statement (.txenErr x) := fun _ => event _ _ _ _ rfl
theorem wrOk (x : Byte) : Statement (.wrOk x) := fun _ => event _ _ _ _ rfl
theorem wrErr (x : Byte) : Statement (.wrErr x) := fun _ => event _ _ _ _ rfl
theorem rxByte (b : Byte) : Statement (.rxByte b) := fun _ => event _ _ _ _ rfl
theorem rxTimeout (x : Byte) : Statement (.rxTimeout x) := fun _ => event _ _ _ _ rfl
theorem rxErr (x : Byte) : Statement (.rxErr x) := fun _ => event _ _ _ _ rfl
theorem resetReq (x : Byte) : Statement (.resetReq x) := fun _ => event _ _ _ _ rfl
theorem bfTest (b m : Byte) : Statement (.bfTest b m) := fun _ => by simp only [encode, fixedBits, mnemonic]; decide
theorem bfSet (b m : Byte) : Statement (.bfSet b m) := fun _ => by simp only [encode, fixedBits, mnemonic]; decide
theorem xorFold (s : List Byte) : Statement (.xorFold s) := fun _ => by simp only [encode, fixedBits, mnemonic]; decide
theorem encodeFn (a : Address) (c l : Byte) (d : List Byte) : Statement (.encodeFn a c l d) := fun _ => by
  simp only [encode, fixedBits, mnemonic]; decide
theorem decodeFn (s : List Byte) : Statement (.decodeFn s) := fun _ => by simp only [encode, fixedBits, mnemonic]; decide
theorem diagMap (d : List Byte) : Statement (.diagMap d) := fun _ => by simp only [encode, fixedBits, mnemonic]; decide
theorem retryStep : Statement .retryStep := fun _ => by decide
theorem resolveStep : Statement .resolveStep := fun _ => by decide
theorem delimStxUnique : Statement .delimStxUnique := fun _ => by decide

theorem cmd48Frame (dl : Byte) (a d : List Byte) (ck : Byte) : Statement (.cmd48Frame dl a d ck) := by
  intro h
  simp only [Instr.wf, Bool.and_eq_true, beq_iff_eq] at h
  match a, d, h with
  | [a0, a1, a2, a3, a4], [d0, d1, d2, d3, d4, d5, d6, d7], _ =>
    have : fixedBits (encode (.cmd48Frame dl [a0, a1, a2, a3, a4] [d0, d1, d2, d3, d4, d5, d6, d7] ck)) =
        0x0830000000000000 := by
      simp [fixedBits, encode, wireFrameBytes, Config.cmd48, Config.bc48]
    rw [this]
    exact (by decide : inTable "CMD48_FRAME" 0x0830000000000000 = true)

end Sys2Proof.Laws.TableMatch
end

