-- ==== Sys2Proof/Tests/Slice0.lean ====
section
/-! SUPPORT. Tests, and a witness for the hypotheses of each statement. Expected values are those of
95_test_vectors.md, or are written out from the encoding tables of 30_encoding.md; the comment of each test says which. -/

namespace Sys2Proof.Tests

open Sys2Proof Sys2Proof.Machine Sys2Proof.Safety

/-! ### Helpers -/

/-- The map `T` of 95_test_vectors.md §2.5. -/
def mapT : List Config.FlagEntry :=
  [⟨.criticalFault, 1, 0x01#8⟩, ⟨.nonCriticalFault, 1, 0x02#8⟩, ⟨.aoSaturated, 3, 0x80#8⟩, ⟨.supplyFault, 6, 0x04#8⟩]

/-- The configuration of 95_test_vectors.md (Notation), with the map `T`. -/
def params : Config.Params := ⟨⟨2, 41, 5, 1, mapT⟩, by decide⟩

/-- The same with another `MAX_RETRIES`. -/
def paramsWith (n : Nat) (h : Config.RawParams.ok ⟨n, 41, 5, 1, mapT⟩ = true) : Config.Params :=
  ⟨⟨n, 41, 5, 1, mapT⟩, h⟩

/-- The address of the worked example (§1.1). -/
def addr0 : Address := ⟨.secondary, false, 0x002B#16, 0xFFFFFF#24⟩

/-- Eight bytes 0x00. -/
def zeros8 : List Byte := List.replicate 8 0#8

/-- The frame `F` of §1.1. -/
def frameF : List Byte := [0x82#8, 0x00#8, 0x2B#8, 0xFF#8, 0xFF#8, 0xFF#8, 0x30#8, 0x08#8] ++ zeros8 ++ [0x6E#8]

/-- The response `R` of §3 without its last byte. -/
def respBody : List Byte :=
  [0x86#8, 0x00#8, 0x2B#8, 0xFF#8, 0xFF#8, 0xFF#8, 0x30#8, 0x08#8] ++
    [0x00#8, 0x01#8, 0x00#8, 0x80#8, 0x00#8, 0x00#8, 0x04#8, 0x00#8]

/-- The response `R` of §3. -/
def respR : List Byte := respBody ++ [0xEF#8]

/-- The 18-byte response of program P5. -/
def resp18 : List Byte :=
  [0x86#8, 0x00#8, 0x2B#8, 0xFF#8, 0xFF#8, 0xFF#8, 0x30#8, 0x09#8] ++ List.replicate 9 0#8 ++ [0x6B#8]

/-- The record `R` decodes to (program P1). -/
def dfR : DecodedFrame :=
  ⟨0x86#8, addr0, 0x30#8, 0x08#8, [0x00#8, 0x01#8, 0x00#8, 0x80#8, 0x00#8, 0x00#8, 0x04#8, 0x00#8]⟩

/-- The request of §3. -/
def bundle0 : ReqBundle := ⟨addr0, 0x30#8, 8#8, zeros8⟩

/-- The block in `IDLE`. -/
def idle : State := State.resetOf params

/-- The block in a busy state: caller 0's frame `F` in `txf`, and `got` in `rxb`. -/
def busyIn (st : MacState) (idx : BitVec 5) (got : List Byte) (exp : U9) : State :=
  { idle with
    st := st
    txf := Memory.writeBytes [] 0 frameF
    txIdx := idx
    rxb := Memory.writeBytes [] 0 got
    rxCnt := BitVec.ofNat 9 got.length
    rxExp := exp
    owner := some 0#8 }

/-- The block in `RESOLVED` with the success of `R`. -/
def resolvedOk : State :=
  { busyIn .resolved 17#5 respR 17#9 with res := some (.success dfR (diagMap mapT dfR.data) 0#8 .none) }

/-- The next state, if there is one. -/
def nextOf : Out → Option State
  | .next s => some s
  | .fault _ => none
  | .refused _ => none

/-- One field of the next state. -/
def after {α : Type} (f : State → α) (i : Instr) (s : State) : Option α := (nextOf (exec i s)).map f

/-! ### WellFormed refuses ill-formed terms -/

/-- A bundle with fewer bytes than `len`, or with more. -/
theorem test_wf_req :
    (Instr.req 0#8 ⟨addr0, 0x30#8, 8#8, [0#8]⟩).wf = false ∧ (Instr.req 0#8 ⟨addr0, 0x30#8, 0#8, [0#8]⟩).wf = false := by
  decide

/-- A sequence of 265 bytes; 264 are admitted (20_memory.md R51). -/
theorem test_wf_xorFold :
    (Instr.xorFold (List.replicate 265 0#8)).wf = false ∧ (Instr.xorFold (List.replicate 264 0#8)).wf = true := by
  simp only [Instr.wf, List.length_replicate]
  decide

theorem test_wf_decodeFn :
    (Instr.decodeFn (List.replicate 265 0#8)).wf = false ∧ (Instr.decodeFn (List.replicate 264 0#8)).wf = true := by
  simp only [Instr.wf, List.length_replicate]
  decide

theorem test_wf_encodeFn : (Instr.encodeFn addr0 0x30#8 8#8 [0#8]).wf = false := by decide

theorem test_wf_diagMap : (Instr.diagMap [0#8]).wf = false := by decide

theorem test_wf_cmd48Frame :
    (Instr.cmd48Frame 0x82#8 [0#8] zeros8 0#8).wf = false ∧
      (Instr.cmd48Frame 0x82#8 (List.replicate 5 0#8) [0#8] 0#8).wf = false := by
  decide

/-- 42_diagnostic_mapper.md R122 and 00_scope.md R9: a parameter set outside its ranges cannot be instantiated. -/
theorem test_params_refused :
    Config.RawParams.ok ⟨255, 41, 5, 1, mapT⟩ = false ∧ Config.RawParams.ok ⟨2, 41, 41, 1, mapT⟩ = false ∧
      Config.RawParams.ok ⟨2, 41, 5, 0, mapT⟩ = false ∧
      Config.RawParams.ok ⟨2, 41, 5, 1, [⟨.criticalFault, 0, 0x01#8⟩]⟩ = false ∧
      Config.RawParams.ok ⟨2, 41, 5, 1, [⟨.criticalFault, 1, 0x03#8⟩]⟩ = false := by
  decide

/-! ### Decoding: words written out from 30_encoding.md R88, R89, R91, R98, R71, R68 -/

/-- An event word is 8 code bits, then 8 operand bits. -/
theorem test_decode_events :
    decode (.ev 0b00000001_00000101#16 bundle0) = .ok (.req 0b00000101#8 bundle0) ∧
      decode (.ev 0b00000010_00000000#16 bundle0) = .ok (.txenOk 0#8) ∧
      decode (.ev 0b00000011_00000000#16 bundle0) = .ok (.txenErr 0#8) ∧
      decode (.ev 0b00000100_00000000#16 bundle0) = .ok (.wrOk 0#8) ∧
      decode (.ev 0b00000101_00000000#16 bundle0) = .ok (.wrErr 0#8) ∧
      decode (.ev 0b00000110_11101111#16 bundle0) = .ok (.rxByte 0b11101111#8) ∧
      decode (.ev 0b00000111_00000000#16 bundle0) = .ok (.rxTimeout 0#8) ∧
      decode (.ev 0b00001000_00000000#16 bundle0) = .ok (.rxErr 0#8) ∧
      decode (.ev 0b00001001_10000001#16 bundle0) = .ok (.resetReq 0b10000001#8) :=
  ⟨rfl, rfl, rfl, rfl, rfl, rfl, rfl, rfl, rfl⟩

theorem test_decode_functions :
    decode (.fn 0b00010000#8 ⟨0x80#8, 0x7F#8, addr0, 0x30#8, 8#8, zeros8⟩) = .ok (.bfTest 0x80#8 0x7F#8) ∧
      decode (.fn 0b00010001#8 ⟨0x80#8, 0x7F#8, addr0, 0x30#8, 8#8, zeros8⟩) = .ok (.bfSet 0x80#8 0x7F#8) ∧
      decode (.fn 0b00010010#8 ⟨0x80#8, 0x7F#8, addr0, 0x30#8, 8#8, [1#8, 2#8]⟩) = .ok (.xorFold [1#8, 2#8]) ∧
      decode (.fn 0b00010011#8 ⟨0#8, 0#8, addr0, 0x30#8, 2#8, [1#8, 2#8, 3#8]⟩) =
        .ok (.encodeFn addr0 0x30#8 2#8 [1#8, 2#8]) ∧
      decode (.fn 0b00010100#8 ⟨0#8, 0#8, addr0, 0#8, 0#8, [1#8]⟩) = .ok (.decodeFn [1#8]) ∧
      decode (.fn 0b00010101#8 ⟨0#8, 0#8, addr0, 0#8, 0#8, zeros8⟩) = .ok (.diagMap zeros8) :=
  ⟨rfl, rfl, rfl, rfl, rfl, rfl⟩

theorem test_decode_internal_and_wire :
    decode (.st 0b100#3) = .ok .retryStep ∧ decode (.st 0b101#3) = .ok .resolveStep ∧
      decode (.wire [0b10000010#8]) = .ok .delimStxUnique ∧
      decode (.wire frameF) = .ok (.cmd48Frame 0x82#8 [0x00#8, 0x2B#8, 0xFF#8, 0xFF#8, 0xFF#8] zeros8 0x6E#8) :=
  ⟨rfl, rfl, rfl, rfl⟩

/-- What is no row is rejected by name (R96, R97, R98). -/
theorem test_decode_rejects :
    decode (.ev 0x00FF#16 bundle0) = .error (.reservedEvent 0x00#8) ∧
      decode (.ev 0x0A00#16 bundle0) = .error (.reservedEvent 0x0A#8) ∧
      decode (.fn 0x0F#8 FnOperands.zero) = .error (.reservedFunction 0x0F#8) ∧
      decode (.fn 0x16#8 FnOperands.zero) = .error (.reservedFunction 0x16#8) ∧
      decode (.st 0b011#3) = .error (.noInternalStep 0b011#3) ∧
      decode (.ev 0x0100#16 ⟨addr0, 0x30#8, 8#8, [0#8]⟩) = .error .shortData ∧
      decode (.fn 0x15#8 FnOperands.zero) = .error .operandLength ∧
      decode (.wire [0x83#8]) = .error (.otherWire [0x83#8]) :=
  ⟨rfl, rfl, rfl, rfl, rfl, rfl, rfl, rfl⟩

/-- No word matches two rows of the same port: the event rows, the function rows, and `st`. -/
theorem test_rows_do_not_overlap :
    (opcodeTable.filter fun r => r.nbits == 16).Pairwise (fun r q => r.value ≠ q.value) ∧
      (opcodeTable.filter fun r => r.nbits == 8).Pairwise (fun r q => r.value ≠ q.value) ∧
      (opcodeTable.filter fun r => r.nbits == 3).Pairwise (fun r q => r.value ≠ q.value) ∧
      opcodeTable.length = 19 := by
  decide

/-! ### One step: 95_test_vectors.md -/

/-- §2.6: the request in `IDLE`. -/
theorem test_req_accepted :
    after (fun t => (t.st, t.txf, t.owner, t.phyOut)) (.req 0#8 bundle0) idle =
      some (.awaitEn, Memory.writeBytes [] 0 frameF, some 0#8, [.enableTransmit]) := by
  decide

/-- §2.6: `BUSY` before invalid, in `RETRY`. -/
theorem test_req_busy_before_invalid :
    after (fun t => (t.st, t.hostOut)) (.req 1#8 ⟨addr0, 0x30#8, 7#8, List.replicate 7 0#8⟩) (busyIn .retry 0#5 [] 0#9) =
      some (.retry, [(1#8, .busy)]) := by
  decide

/-- §2.6: TXEN_OK. -/
theorem test_txenOk :
    after (fun t => (t.st, t.txIdx, t.phyOut)) (.txenOk 0#8) (busyIn .awaitEn 0#5 [] 0#9) =
      some (.tx, 0#5, [.writeByte 0x82#8]) := by
  decide

/-- §2.6: TXEN_ERR. -/
theorem test_txenErr :
    after (fun t => (t.st, t.lastCause, t.phyOut)) (.txenErr 0#8) (busyIn .awaitEn 0#5 [] 0#9) =
      some (.retry, .physErr, []) := by
  decide

/-- §2.6: WR_OK at `tx_idx` = 15 calls for `txf[16]`. -/
theorem test_wrOk_15 :
    after (fun t => (t.st, t.txIdx, t.phyOut)) (.wrOk 0#8) (busyIn .tx 15#5 [] 0#9) =
      some (.tx, 16#5, [.writeByte 0x6E#8]) := by
  decide

/-- §2.6: WR_OK at `tx_idx` = 16 ends the frame. -/
theorem test_wrOk_16 :
    after (fun t => (t.st, t.rxCnt, t.phyOut)) (.wrOk 0#8) (busyIn .tx 16#5 [] 0#9) =
      some (.awaitRsp, 0#9, [.readByte 41]) := by
  decide

/-- §2.6: WR_ERR at `tx_idx` = 5; `tx_idx` stays (R141). -/
theorem test_wrErr :
    after (fun t => (t.st, t.lastCause, t.txIdx)) (.wrErr 0#8) (busyIn .tx 5#5 [] 0#9) = some (.retry, .physErr, 5#5) := by
  decide

/-- §2.6: the 8th byte 0xFF makes `rx_exp` 264. -/
theorem test_rxByte_length :
    after (fun t => (t.rxCnt, t.rxExp, t.phyOut)) (.rxByte 0xFF#8) (busyIn .awaitRsp 17#5 (respR.take 7) 0#9) =
      some (8#9, 264#9, [.readByte 5]) := by
  decide

/-- §2.6: the 17th byte of `R`. -/
theorem test_rxByte_success :
    after (fun t => (t.st, t.res)) (.rxByte 0xEF#8) (busyIn .awaitRsp 17#5 respBody 17#9) =
      some (.resolved,
        some (.success dfR
          ⟨[0x01#8, 0x00#8, 0x80#8, 0x00#8, 0x00#8, 0x04#8],
            [(.criticalFault, true), (.nonCriticalFault, false), (.aoSaturated, true), (.supplyFault, true)]⟩
          0#8 .none)) := by
  decide

/-- §2.6: the partial frame of `rx_cnt` = 5 times out. -/
theorem test_rxTimeout :
    after (fun t => (t.st, t.lastCause)) (.rxTimeout 0#8) (busyIn .awaitRsp 17#5 (respR.take 5) 0#9) =
      some (.retry, .timeout) := by
  decide

/-- §2.6: RX_ERR at `rx_cnt` = 3. -/
theorem test_rxErr :
    after (fun t => (t.st, t.lastCause)) (.rxErr 0#8) (busyIn .awaitRsp 17#5 (respR.take 3) 0#9) =
      some (.retry, .physErr) := by
  decide

/-- §2.7: `RESET_REQ` discards a success. -/
theorem test_resetReq_discards_success :
    after (fun t => (t.st, t.res, t.hostOut.map fun p => (p.1, resultWord p.2))) (.resetReq 0#8) resolvedOk =
      some (.idle, none, [(0#8, 0x0005#16)]) := by
  decide

/-- §2.7: `retry_cnt` = 2, `last_cause` = `CHECKSUM`. -/
theorem test_resetReq_reports_counts :
    after (fun t => (t.retryCnt, t.lastCause, t.hostOut.map fun p => resultWord p.2)) (.resetReq 0#8)
      { busyIn .retry 17#5 respR 17#9 with retryCnt := 2#8, lastCause := .checksum } =
      some (0#8, .none, [0x021D#16]) := by
  decide

/-- §2.1. -/
theorem test_bfTest :
    after (fun t => t.fnOut) (.bfTest 0x0C#8 0x06#8) idle = some [.bit true] ∧
      after (fun t => t.fnOut) (.bfTest 0xFF#8 0x00#8) idle = some [.bit false] := by
  decide

/-- §2.1. -/
theorem test_bfSet :
    after (fun t => t.fnOut) (.bfSet 0x02#8 0x80#8) idle = some [.byte 0x82#8] ∧
      after (fun t => t.fnOut) (.bfSet 0x81#8 0x01#8) idle = some [.byte 0x81#8] := by
  decide

/-- §2.2. -/
theorem test_xorFold :
    after (fun t => t.fnOut) (.xorFold [1#8, 2#8, 4#8, 8#8]) idle = some [.byte 0x0F#8] ∧
      after (fun t => t.fnOut) (.xorFold frameF) idle = some [.byte 0x00#8] := by
  decide

/-- §2.3: primary, burst, id 0x123456. -/
theorem test_encode :
    after (fun t => t.fnOut)
      (.encodeFn ⟨.primary, true, 0x0000#16, 0x123456#24⟩ 0x30#8 8#8 [1#8, 2#8, 3#8, 4#8, 5#8, 6#8, 7#8, 8#8]) idle =
      some [.frame [0x82#8, 0xC0#8, 0x00#8, 0x12#8, 0x34#8, 0x56#8, 0x30#8, 0x08#8, 1#8, 2#8, 3#8, 4#8, 5#8, 6#8, 7#8,
        8#8, 0x02#8]] := by
  decide

/-- §2.3: bits 15:14 of the device type code are dropped; command 0x31 is not recognized. -/
theorem test_encode_corners :
    encodeFrame ⟨.secondary, false, 0x4ABC#16, 0x000001#24⟩ 0x30#8 8#8 zeros8 =
        .ok ([0x82#8, 0x0A#8, 0xBC#8, 0x00#8, 0x00#8, 0x01#8, 0x30#8, 0x08#8] ++ zeros8 ++ [0x0D#8]) ∧
      encodeFrame addr0 0x31#8 8#8 zeros8 = .error .invalidPayloadLength :=
  ⟨rfl, rfl⟩

/-- §2.4: `R` decodes; the byte-count-zero frame does not. -/
theorem test_decode :
    after (fun t => t.fnOut) (.decodeFn respR) idle = some [.decoded dfR] ∧
      after (fun t => t.fnOut) (.decodeFn [0x82#8, 0x00#8, 0x2B#8, 0xFF#8, 0xFF#8, 0xFF#8, 0x30#8, 0x00#8, 0x66#8]) idle =
        some [.notDecoded .malformedFrame] := by
  decide

/-- §2.4: structure before checksum, and a bad delimiter byte under an unchanged checksum. -/
theorem test_decode_order :
    after (fun t => t.fnOut) (.decodeFn ((frameF.set 6 0x31#8).set 16 0x00#8)) idle =
        some [.notDecoded .malformedFrame] ∧
      after (fun t => t.fnOut) (.decodeFn (frameF.set 0 0x83#8)) idle = some [.notDecoded .checksumMismatch] := by
  decide

/-- §2.5: the payload `00 01 00 80 00 00 04 00` under `T`. -/
theorem test_diagMap :
    after (fun t => t.fnOut) (.diagMap dfR.data) idle =
      some [.diagnostics ⟨[0x01#8, 0x00#8, 0x80#8, 0x00#8, 0x00#8, 0x04#8],
        [(.criticalFault, true), (.nonCriticalFault, false), (.aoSaturated, true), (.supplyFault, true)]⟩] := by
  decide

/-- §2.6: `retry_cnt` = 0 of 2. -/
theorem test_retryStep :
    after (fun t => (t.st, t.retryCnt, t.txIdx, t.phyOut)) .retryStep (busyIn .retry 17#5 [] 0#9) =
      some (.awaitEn, 1#8, 0#5, [.enableTransmit]) := by
  decide

/-- §2.6: `retry_cnt` = 2 of 2; its result word is that of program P3. -/
theorem test_retryStep_exhausted :
    after (fun t => (t.st, t.retryCnt, t.res.map resultWord)) .retryStep
      { busyIn .retry 17#5 [] 0#9 with retryCnt := 2#8, lastCause := .timeout } =
      some (.resolved, 3#8, some 0x0309#16) := by
  decide

/-- §2.6, §2.8: the result goes to caller 0. -/
theorem test_resolveStep :
    after (fun t => (t.st, t.owner, t.hostOut.map fun p => (p.1, resultWord p.2))) .resolveStep resolvedOk =
      some (.idle, none, [(0#8, 0x0040#16)]) := by
  decide

/-- The delimiter byte arrives as the event `RX 82` (30_encoding.md R99: 0x0682). -/
theorem test_delimStxUnique :
    after (fun t => t.inbox) .delimStxUnique idle = some [.ev 0x0682#16 ReqBundle.zero] := by
  decide

/-- The bytes of a frame arrive in index order: byte 1 is 0x00, byte 2 is 0x2B, the last is 0x6E. -/
theorem test_cmd48Frame :
    after (fun t => (t.inbox.length, t.inbox[2]?, t.inbox[16]?))
      (.cmd48Frame 0x82#8 [0x00#8, 0x2B#8, 0xFF#8, 0xFF#8, 0xFF#8] zeros8 0x6E#8) idle =
      some (17, some (.ev 0x062B#16 ReqBundle.zero), some (.ev 0x066E#16 ReqBundle.zero)) := by
  decide

/-- §2.8: three `STATUS` words. -/
theorem test_status :
    statusWord (busyIn .tx 1#5 [] 0#9) = 0x0001000A#32 ∧ statusWord resolvedOk = 0x0231008D#32 ∧
      statusWord { busyIn .retry 17#5 resp18 18#9 with lastCause := .malformed } = 0x0251002C#32 := by
  decide

/-- The buffers at reset are in canonical form. -/
theorem test_reset_memory_wf : State.reset.txf.wf .txf = true ∧ State.reset.rxb.wf .rxb = true := ⟨rfl, rfl⟩

/-! ### Witnesses: a state and operands that meet the hypotheses of each statement -/

/-- A step that goes on. -/
def goesOn (s : State) : Bool := (nextOf (step s)).isSome

/-- An instruction that goes on. -/
def runs (i : Instr) (s : State) : Bool := (nextOf (exec i s)).isSome

theorem nextOf_some {o : Out} (h : (nextOf o).isSome = true) : ∃ t, o = .next t := by
  cases o with
  | next t => exact ⟨t, rfl⟩
  | fault f => simp [nextOf] at h
  | refused r => simp [nextOf] at h

/-- `DecodeEncodeAgree`: an operand of each variable length, at the ends of its range. -/
theorem witness_DecodeEncodeAgree :
    (Instr.req 0xFF#8 bundle0).wf = true ∧ (Instr.req 0#8 ReqBundle.zero).wf = true ∧ (Instr.xorFold []).wf = true ∧
      (Instr.encodeFn addr0 0x30#8 8#8 zeros8).wf = true ∧ (Instr.diagMap zeros8).wf = true ∧
      (Instr.cmd48Frame 0x86#8 (List.replicate 5 0#8) zeros8 0#8).wf = true := by
  decide

/-- `DecodedWordsAreTheInstructionsOwn`: one word of each port. -/
theorem witness_DecodedWordsAreTheInstructionsOwn :
    decode (.ev 0x09FF#16 bundle0) = .ok (.resetReq 0xFF#8) ∧
      decode (.fn 0x10#8 ⟨1#8, 2#8, addr0, 3#8, 4#8, [5#8]⟩) = .ok (.bfTest 1#8 2#8) ∧
      decode (.st 5#3) = .ok .resolveStep ∧ decode (.wire [0x82#8]) = .ok .delimStxUnique :=
  ⟨rfl, rfl, rfl, rfl⟩

/-- `StepRunsTheDecodedInstruction`: one state for each clause. -/
theorem witness_StepRunsTheDecodedInstruction :
    (({ idle with inbox := [.ev 0x0100#16 bundle0] }).inbox = [.ev 0x0100#16 bundle0] ∧
        decode (.ev 0x0100#16 bundle0) = .ok (.req 0#8 bundle0)) ∧
      (({ idle with inbox := [.fn 0x12#8 FnOperands.zero] }).inbox = [.fn 0x12#8 FnOperands.zero] ∧
        decode (.fn 0x12#8 FnOperands.zero) = .ok (.xorFold [])) ∧
      (({ idle with inbox := [.wire [0x82#8]] }).inbox = [.wire [0x82#8]] ∧
        decode (.wire [0x82#8]) = .ok .delimStxUnique) ∧
      (({ resolvedOk with inbox := [.internal] }).inbox = [.internal] ∧
        decode (.st resolvedOk.st.code) = .ok .resolveStep) ∧
      ((busyIn .retry 17#5 [] 0#9).inbox = [] ∧
        decode (.st (busyIn .retry 17#5 [] 0#9).st.code) = .ok .retryStep) :=
  ⟨⟨rfl, rfl⟩, ⟨rfl, rfl⟩, ⟨rfl, rfl⟩, ⟨rfl, rfl⟩, ⟨rfl, rfl⟩⟩

/-- `PlacedTableWordRunsNext`: a word of each kind; the two internal steps select their `st`. -/
theorem witness_PlacedTableWordRunsNext :
    decodeTableWord 16 0x0100 = some (.req 0#8 ReqBundle.zero) ∧ decodeTableWord 8 0x15 = some (.diagMap zeros8) ∧
      decodeTableWord 8 4 = some .retryStep ∧ decodeTableWord 8 5 = some .resolveStep ∧
      goesOn (idle.withFetchWord 8 4) = true ∧ goesOn (idle.withFetchWord 8 5) = true := by
  decide

/-- `BlockWaitsForAnEvent`: `IDLE` and each wait for the PHY. -/
theorem witness_BlockWaitsForAnEvent :
    (idle.inbox = [] ∧ idle.st = .idle) ∧
      ((busyIn .awaitEn 0#5 [] 0#9).inbox = [] ∧ waitsForPhy (busyIn .awaitEn 0#5 [] 0#9).st = true) ∧
      ((busyIn .tx 16#5 [] 0#9).inbox = [] ∧ waitsForPhy (busyIn .tx 16#5 [] 0#9).st = true) ∧
      ((busyIn .awaitRsp 17#5 [] 0#9).inbox = [] ∧ waitsForPhy (busyIn .awaitRsp 17#5 [] 0#9).st = true) := by
  decide

/-- `ReservedEventsAreDropped`: the words at the ends of the two ranges. -/
theorem witness_ReservedEventsAreDropped :
    idle.st.unused = false ∧ ({ idle with inbox := [.ev 0x00FF#16 bundle0] }).inbox = [.ev 0x00FF#16 bundle0] ∧
      (0x0000#16).toNat < 0x0100 ∧ (0x00FF#16).toNat < 0x0100 ∧ 0x0A00 ≤ (0x0A00#16).toNat ∧
      0x0A00 ≤ (0xFFFF#16).toNat := by
  decide

/-- `ReservedFunctionsAreRefused`: the codes at the ends of the two ranges. -/
theorem witness_ReservedFunctionsAreRefused :
    idle.st.unused = false ∧
      ({ idle with inbox := [.fn 0x0F#8 FnOperands.zero] }).inbox = [.fn 0x0F#8 FnOperands.zero] ∧
      (0x00#8).toNat < 0x10 ∧ (0x0F#8).toNat < 0x10 ∧ 0x16 ≤ (0x16#8).toNat ∧ 0x16 ≤ (0xFF#8).toNat := by
  decide

/-- `UnusedStatesAreRefusedAndNeverEntered`: both values; and a step that goes on. -/
theorem witness_UnusedStatesAreRefusedAndNeverEntered :
    ({ idle with st := .unused6 }).st.unused = true ∧ ({ idle with st := .unused7 }).st.unused = true ∧
      ∃ t, step resolvedOk = .next t :=
  ⟨rfl, rfl, nextOf_some (by decide)⟩

/-- A legal state, busy or not: `BitFieldCallsAnswer`, `InternalStepsAreSelectedByState`, `WireBytesArriveInOrder`,
`DiagMapAnswers`. The last needs an entry of `FLAG_MAP`, its two ends, and a name that is in none. -/
theorem witness_legal_state :
    idle.st.unused = false ∧ (busyIn .tx 16#5 [] 0#9).st.unused = false ∧ idle.st ≠ .retry ∧ idle.st ≠ .resolved ∧
      (⟨.criticalFault, 1, 0x01#8⟩ : Config.FlagEntry) ∈ idle.cfg.val.flagMap ∧
      (⟨.supplyFault, 6, 0x04#8⟩ : Config.FlagEntry) ∈ idle.cfg.val.flagMap ∧
      Config.FlagName.watchdogFault ∉ idle.cfg.val.flagMap.map (fun e => e.name) := by
  decide

/-- The operand buffers of `XorFoldFoldsAndAnswers`, `EncodeAnswers`, `DecodeVerdictAndAnswer`, `DiagMapAnswers`. -/
theorem witness_operand_buffers :
    ({ FnOperands.zero with buf := frameF }).buf.length ≤ 264 ∧
      (8#8 : Byte).toNat ≤ ({ FnOperands.zero with buf := zeros8, len := 8#8 }).buf.length ∧
      ({ FnOperands.zero with buf := zeros8 }).buf.length = 8 := by
  decide

/-- `BitFieldLaws`: a mask that is not 0, and both ends of the bit index. -/
theorem witness_BitFieldLaws : (0x80#8 : Byte) ≠ 0#8 ∧ 0 < 8 ∧ 7 < 8 := by decide

/-- `XorFoldFoldsAndAnswers`: the longest sequence; a permutation that is not the identity. -/
theorem witness_XorFoldFoldsAndAnswers :
    idle.st.unused = false ∧ (List.replicate 264 0xA5#8).length ≤ 264 ∧ ([] : List Byte).length ≤ 264 ∧
      [1#8, 2#8].Perm [2#8, 1#8] :=
  ⟨rfl, by rw [List.length_replicate], by decide, List.Perm.swap _ _ _⟩

/-- `XorFoldLaws`: the last byte and the top bit. -/
theorem witness_XorFoldLaws : 16 < frameF.length ∧ 7 < 8 := by decide

/-- `EncodeAnswers`: each way to be recognized or not. -/
theorem witness_EncodeAnswers :
    idle.st.unused = false ∧ (zeros8.length = (8#8 : Byte).toNat ∧ (0x30#8 : Byte) = 0x30#8) ∧
      ((List.replicate 7 0#8).length = (7#8 : Byte).toNat ∧ (7#8 : Byte) ≠ 8#8) ∧ (0x31#8 : Byte) ≠ 0x30#8 := by
  decide

/-- `DecodeVerdictAndAnswer`: a sequence for each clause. -/
theorem witness_DecodeVerdictAndAnswer :
    idle.st.unused = false ∧
      ¬((frameF.take 16).length = 17 ∧ (frameF.take 16).getD 6 0#8 = 0x30#8 ∧ (frameF.take 16).getD 7 0#8 = 0x08#8) ∧
      (frameF.length = 17 ∧ frameF.getD 6 0#8 = 0x30#8 ∧ frameF.getD 7 0#8 = 0x08#8 ∧
        xorFold (frameF.take 16) = frameF.getD 16 0#8 ∧ frameF.length ≤ 264) ∧
      (xorFold ((frameF.set 0 0x83#8).take 16) ≠ (frameF.set 0 0x83#8).getD 16 0#8) ∧
      decodeFrame respR = .ok dfR ∧ decodeFrame (frameF.set 0 0x83#8) = .error .checksumMismatch ∧
      decodeFrame (frameF.take 16) = .error .malformedFrame :=
  ⟨rfl, by decide, by decide, by decide, rfl, rfl, rfl⟩

/-- An encoded frame, the ends of its bytes and bits, and an Address with and without bits 15:14:
`EncodedFrameFoldsToZero`, `SingleBitFlipIsDetected`, `DelimiterFields`, `CodecRoundTrip`. -/
theorem witness_encoded_frame :
    encodeFrame addr0 0x30#8 8#8 zeros8 = .ok frameF ∧ 0 < 17 ∧ 6 < 17 ∧ 7 < 17 ∧ 16 < 17 ∧ 7 < 8 ∧
      zeros8.length = 8 ∧ validAddress addr0 = true ∧ validAddress ⟨.primary, true, 0x4000#16, 0#24⟩ = false :=
  ⟨rfl, by decide, by decide, by decide, by decide, by decide, rfl, rfl, rfl⟩

/-- `OnlySeventeenBytesDecode`. -/
theorem witness_OnlySeventeenBytesDecode : decodeFrame respR = .ok dfR := rfl

/-- `FlagFidelity`: two entries with different names. -/
theorem witness_FlagFidelity :
    (⟨.aoSaturated, 3, 0x80#8⟩ : Config.FlagEntry) ∈ params.val.flagMap ∧
      (⟨.supplyFault, 6, 0x04#8⟩ : Config.FlagEntry) ∈ params.val.flagMap ∧
      (Config.FlagName.supplyFault ≠ Config.FlagName.aoSaturated) := by
  decide

/-- `RequestWhileBusyAnswersBusy`, `RequestAccepted`, `RequestRejected`. -/
theorem witness_requests :
    ((busyIn .tx 1#5 [] 0#9).st.unused = false ∧ (busyIn .tx 1#5 [] 0#9).st ≠ .idle) ∧
      (idle.st = .idle ∧ bundle0.wf = true ∧ bundle0.cmd = 0x30#8 ∧ bundle0.len = 8#8) ∧
      ((⟨addr0, 0x31#8, 8#8, zeros8⟩ : ReqBundle).cmd ≠ 0x30#8 ∧
        (⟨addr0, 0x30#8, 255#8, zeros8⟩ : ReqBundle).len ≠ 8#8) := by
  decide

/-- `SecondRequestIsBusy`: the second caller is another one, and its request is not even recognized. -/
theorem witness_SecondRequestIsBusy :
    let b2 : ReqBundle := ⟨addr0, 0x00#8, 0#8, []⟩
    let s : State := { idle with inbox := [.ev (evWord 0x01#8 0#8) bundle0, .ev (evWord 0x01#8 1#8) b2] }
    s.st = .idle ∧ bundle0.wf = true ∧ b2.wf = true ∧ bundle0.cmd = 0x30#8 ∧ bundle0.len = 8#8 ∧
      s.inbox = .ev (evWord 0x01#8 0#8) bundle0 :: .ev (evWord 0x01#8 1#8) b2 :: [] :=
  ⟨rfl, rfl, rfl, rfl, rfl, rfl⟩

/-- `TransmitEnableStartsSending`. -/
theorem witness_TransmitEnableStartsSending :
    (busyIn .awaitEn 0#5 [] 0#9).st = .awaitEn ∧ (busyIn .awaitEn 0#5 [] 0#9).txf.read 0 = some 0x82#8 := by
  decide

/-- `ByteWrittenAdvances`: the first byte, the last of the first clause, and the second clause. -/
theorem witness_ByteWrittenAdvances :
    ((busyIn .tx 0#5 [] 0#9).st = .tx ∧ (busyIn .tx 0#5 [] 0#9).txIdx.toNat < 16 ∧
        (busyIn .tx 0#5 [] 0#9).txf.read 1 = some 0x00#8) ∧
      ((busyIn .tx 15#5 [] 0#9).txIdx.toNat < 16 ∧ (busyIn .tx 15#5 [] 0#9).txf.read 16 = some 0x6E#8) ∧
      (busyIn .tx 16#5 [] 0#9).txIdx.toNat = 16 := by
  decide

/-- `FailingAnswersFailTheAttempt`: each of the three states. -/
theorem witness_FailingAnswersFailTheAttempt :
    (busyIn .awaitEn 0#5 [] 0#9).st = .awaitEn ∧ (busyIn .tx 0#5 [] 0#9).st = .tx ∧
      (busyIn .awaitRsp 17#5 [] 0#9).st = .awaitRsp := by
  decide

/-- `ResponseByteReceived`, short of the length: the first byte, the 8th with the shortest length, and a byte of a frame of 264. -/
theorem witness_ResponseByteReceived_short :
    (let s := busyIn .awaitRsp 17#5 [] 0#9;
      s.st = .awaitRsp ∧ s.rxCnt.toNat < 264 ∧ s.rxCnt.toNat ≠ 7 ∧ s.rxExp.toNat = 0) ∧
      (let s := busyIn .awaitRsp 17#5 (respR.take 7) 0#9;
        s.rxCnt.toNat = 7 ∧ 9 + (0x00#8 : Byte).toNat ≠ 0 ∧ s.rxCnt.toNat + 1 ≠ 9 + (0x00#8 : Byte).toNat) ∧
      (let s : State := { busyIn .awaitRsp 17#5 [] 264#9 with rxCnt := 262#9 };
        s.st = .awaitRsp ∧ s.rxCnt.toNat < 264 ∧ s.rxCnt.toNat ≠ 7 ∧ s.rxCnt.toNat + 1 ≠ s.rxExp.toNat) := by
  decide

/-- `ResponseByteReceived`, at the length: the 17th byte, with a right and with a wrong checksum; the 18th of a malformed frame. -/
theorem witness_ResponseByteReceived_complete :
    (let s := busyIn .awaitRsp 17#5 respBody 17#9;
      s.st = .awaitRsp ∧ s.rxCnt.toNat < 264 ∧ respBody.length = s.rxCnt.toNat ∧
        (∀ j, j < respBody.length → s.rxb.read j = respBody[j]?) ∧ s.rxCnt.toNat ≠ 7 ∧
        s.rxCnt.toNat + 1 = s.rxExp.toNat) ∧
      decodeFrame (respBody ++ [0xEF#8]) = .ok dfR ∧
      decodeFrame (respBody ++ [0xEE#8]) = .error .checksumMismatch ∧
      (let s := busyIn .awaitRsp 17#5 (resp18.take 17) 18#9;
        (resp18.take 17).length = s.rxCnt.toNat ∧
          (∀ j, j < (resp18.take 17).length → s.rxb.read j = (resp18.take 17)[j]?) ∧
          s.rxCnt.toNat + 1 = s.rxExp.toNat) ∧
      decodeFrame (resp18.take 17 ++ [0x6B#8]) = .error .malformedFrame :=
  ⟨by decide, rfl, rfl, by decide, rfl⟩

/-- `StrayEventsAreDropped`: each PHY event in a state that does not wait for it. -/
theorem witness_StrayEventsAreDropped :
    MacState.unused .idle = false ∧ stray .idle (.txenOk 0#8) = true ∧ stray .tx (.txenErr 0#8) = true ∧
      stray .awaitEn (.wrOk 0#8) = true ∧ stray .awaitRsp (.wrErr 0#8) = true ∧ stray .tx (.rxByte 0x86#8) = true ∧
      stray .retry (.rxTimeout 0#8) = true ∧ stray .resolved (.rxErr 0#8) = true := by
  decide

/-- `RetryStepRetriesOrEnds`: both clauses where they meet, and at `MAX_RETRIES` = 0 and 254. -/
theorem witness_RetryStepRetriesOrEnds :
    (let s : State := { busyIn .retry 17#5 [] 0#9 with retryCnt := 1#8 };
      s.st = .retry ∧ s.retryCnt.toNat < 255 ∧ s.retryCnt.toNat + 1 ≤ s.cfg.val.maxRetries) ∧
      (let s : State := { busyIn .retry 17#5 [] 0#9 with retryCnt := 2#8 };
        s.st = .retry ∧ s.retryCnt.toNat < 255 ∧ s.cfg.val.maxRetries < s.retryCnt.toNat + 1) ∧
      (let s : State := { busyIn .retry 17#5 [] 0#9 with cfg := paramsWith 0 (by decide) };
        s.retryCnt.toNat < 255 ∧ s.cfg.val.maxRetries < s.retryCnt.toNat + 1) ∧
      (let s : State := { busyIn .retry 17#5 [] 0#9 with cfg := paramsWith 254 (by decide), retryCnt := 254#8 };
        s.retryCnt.toNat < 255 ∧ s.cfg.val.maxRetries < s.retryCnt.toNat + 1) := by
  decide

/-- `ResolveStepReports`. -/
theorem witness_ResolveStepReports :
    resolvedOk.st = .resolved ∧ resolvedOk.owner = some 0#8 ∧
      resolvedOk.res = some (.success dfR (diagMap mapT dfR.data) 0#8 .none) := by
  decide

/-- `ResetRequestAbandons`: both clauses. -/
theorem witness_ResetRequestAbandons :
    (idle.st.unused = false ∧ idle.st = .idle) ∧
      (resolvedOk.st.unused = false ∧ resolvedOk.st ≠ .idle ∧ resolvedOk.owner = some 0#8) := by
  decide

/-- `ResponseReceivedInFull`: the shortest response, and the 17 bytes of each verdict. -/
theorem witness_ResponseReceivedInFull :
    let short : List Byte := [0x82#8, 0x00#8, 0x2B#8, 0xFF#8, 0xFF#8, 0xFF#8, 0x30#8, 0x00#8, 0x66#8]
    let s : State := { busyIn .awaitRsp 17#5 [] 0#9 with inbox := responseEvents respR ++ [.internal] }
    (s.st = .awaitRsp ∧ s.rxCnt = 0 ∧ s.rxExp = 0 ∧ 9 ≤ respR.length ∧
      respR.length = 9 + (respR.getD 7 0#8).toNat ∧ s.inbox = responseEvents respR ++ [.internal]) ∧
      (9 ≤ short.length ∧ short.length = 9 + (short.getD 7 0#8).toNat) ∧
      (resp18.length = 9 + (resp18.getD 7 0#8).toNat ∧ 9 ≤ resp18.length) ∧
      decodeFrame respR = .ok dfR ∧ decodeFrame short = .error .malformedFrame ∧
      decodeFrame (respBody ++ [0xEE#8]) = .error .checksumMismatch :=
  ⟨by decide, by decide, by decide, rfl, rfl, rfl⟩

/-- `OutstandingCallOfState`: a state for each clause, at the ends of `tx_idx` and `rx_cnt`. -/
theorem witness_OutstandingCallOfState :
    (busyIn .awaitEn 0#5 [] 0#9).st = .awaitEn ∧
      ((busyIn .tx 16#5 [] 0#9).st = .tx ∧ (busyIn .tx 16#5 [] 0#9).txIdx.toNat < 17 ∧
        (busyIn .tx 16#5 [] 0#9).txf.read 16 = some 0x6E#8) ∧
      ((busyIn .awaitRsp 17#5 [] 0#9).st = .awaitRsp ∧ (busyIn .awaitRsp 17#5 [] 0#9).rxCnt.toNat = 0) ∧
      (1 ≤ (busyIn .awaitRsp 17#5 [0x86#8] 0#9).rxCnt.toNat) ∧ resolvedOk.st = .resolved := by
  decide

/-- `CallsAreIssuedByAdvancingSteps`: an answer that acts, an accepted request, and a step that touches no call. -/
theorem witness_CallsAreIssuedByAdvancingSteps :
    (runs (.txenOk 0#8) (busyIn .awaitEn 0#5 [] 0#9) = true ∧ advances .awaitEn (.txenOk 0#8) = true) ∧
      after (fun t => t.st) (.req 0#8 bundle0) idle = some .awaitEn ∧
      (runs (.req 1#8 bundle0) (busyIn .tx 1#5 [] 0#9) = true ∧ advances .tx (.req 1#8 bundle0) = false) := by
  decide

/-- `CarrierIsNeverRead`: a step that goes on, one that faults, and one that is refused. -/
theorem witness_CarrierIsNeverRead :
    (∃ t, step resolvedOk = .next t) ∧ step { resolvedOk with owner := none } = .fault .ownerMissing ∧
      step { idle with inbox := [.internal] } = .refused .internalNotSelected :=
  ⟨nextOf_some (by decide), rfl, rfl⟩

/-- After power-on. -/
theorem witness_Inv_idle : Inv idle where
  legal := rfl
  owner_iff_busy := rfl
  res_iff_resolved := by decide
  res_final := by intro r h; cases h
  tx_bound := by decide
  rx_shape := by decide
  attempt_budget := by decide
  retry_budget := by decide
  retry_bound := by decide
  idle_clear := by decide
  tx_range := by decide
  rx_range := by decide
  exp_range := by decide
  txf_wf := by decide
  rxb_wf := by decide
  txf_filled := fun h => absurd rfl h
  rxb_filled := by intro h; cases h

/-- Sending: every invariant holds, `txf` is filled. -/
theorem witness_Inv_tx : Inv (busyIn .tx 16#5 [] 0#9) where
  legal := rfl
  owner_iff_busy := rfl
  res_iff_resolved := by decide
  res_final := by intro r h; cases h
  tx_bound := by decide
  rx_shape := by decide
  attempt_budget := by decide
  retry_budget := by decide
  retry_bound := by decide
  idle_clear := by decide
  tx_range := by decide
  rx_range := by decide
  exp_range := by decide
  txf_wf := by decide
  rxb_wf := by decide
  txf_filled := fun _ => by unfold Filled; decide
  rxb_filled := by intro h; cases h

/-- Receiving: 16 bytes of `R` are in `rxb`. -/
theorem witness_Inv_awaitRsp : Inv (busyIn .awaitRsp 17#5 respBody 17#9) where
  legal := rfl
  owner_iff_busy := rfl
  res_iff_resolved := by decide
  res_final := by intro r h; cases h
  tx_bound := by decide
  rx_shape := by decide
  attempt_budget := by decide
  retry_budget := by decide
  retry_bound := by decide
  idle_clear := by decide
  tx_range := by decide
  rx_range := by decide
  exp_range := by decide
  txf_wf := by decide
  rxb_wf := by decide
  txf_filled := fun _ => by unfold Filled; decide
  rxb_filled := fun _ => by unfold Filled; decide

/-- A result is pending. -/
theorem witness_Inv_resolved : Inv resolvedOk where
  legal := rfl
  owner_iff_busy := rfl
  res_iff_resolved := by decide
  res_final := by intro r h; cases h; rfl
  tx_bound := by decide
  rx_shape := by decide
  attempt_budget := by decide
  retry_budget := by decide
  retry_bound := by decide
  idle_clear := by decide
  tx_range := by decide
  rx_range := by decide
  exp_range := by decide
  txf_wf := by decide
  rxb_wf := by decide
  txf_filled := fun _ => by unfold Filled; decide
  rxb_filled := by intro h; cases h

/-- `EveryStepKeepsTheInvariants`, `NoStepFaults`, `ConfigurationIsConstant`: a state with the invariants whose step
goes on, for a write answered, a frame completed, and a result reported. -/
theorem witness_EveryStepKeepsTheInvariants :
    (∃ s t, Inv s ∧ s.st = .tx ∧ step s = .next t) ∧ (∃ s t, Inv s ∧ s.st = .awaitRsp ∧ step s = .next t) ∧
      ∃ s t, Inv s ∧ s.st = .resolved ∧ step s = .next t :=
  ⟨(nextOf_some (o := step { busyIn .tx 16#5 [] 0#9 with inbox := [.ev 0x0400#16 ReqBundle.zero] }) (by decide)).elim
      fun t h => ⟨_, t, (inv_with_inbox witness_Inv_tx _), rfl, h⟩,
    (nextOf_some (o := step { busyIn .awaitRsp 17#5 respBody 17#9 with inbox := [.ev 0x06EF#16 ReqBundle.zero] })
        (by decide)).elim
      fun t h => ⟨_, t, (inv_with_inbox witness_Inv_awaitRsp _), rfl, h⟩,
    (nextOf_some (o := step resolvedOk) (by decide)).elim fun t h => ⟨_, t, witness_Inv_resolved, rfl, h⟩⟩

/-- `EveryCarriableInputIsTaken`: an event, a reserved event, the wire row, other wire bytes, and nothing scheduled. -/
theorem witness_EveryCarriableInputIsTaken :
    (∃ s, Inv s ∧ s.inbox = [.ev 0x0400#16 ReqBundle.zero] ∧ Carriable s) ∧
      (∃ s, Inv s ∧ s.inbox = [.ev 0xFFFF#16 ReqBundle.zero] ∧ Carriable s) ∧
      (∃ s, Inv s ∧ s.inbox = [.wire [0x82#8]] ∧ Carriable s) ∧
      (∃ s, Inv s ∧ s.inbox = [.wire [0x86#8, 0x00#8]] ∧ Carriable s) ∧
      ∃ s, Inv s ∧ s.inbox = [] ∧ Carriable s := by
  refine ⟨⟨_, inv_with_inbox witness_Inv_tx [.ev 0x0400#16 ReqBundle.zero], rfl, ?_⟩,
    ⟨_, inv_with_inbox witness_Inv_tx [.ev 0xFFFF#16 ReqBundle.zero], rfl, ?_⟩,
    ⟨_, inv_with_inbox witness_Inv_awaitRsp [.wire [0x82#8]], rfl, ?_⟩,
    ⟨_, inv_with_inbox witness_Inv_awaitRsp [.wire [0x86#8, 0x00#8]], rfl, ?_⟩,
    ⟨_, inv_with_inbox witness_Inv_tx [], rfl, ?_⟩⟩
  all_goals
    intro w s1 h
    cases h
  · exact .inl ⟨.wrOk 0#8, rfl⟩
  · exact .inr (.inl ⟨0xFF#8, rfl⟩)
  · exact .inl ⟨.delimStxUnique, rfl⟩
  · exact .inr (.inr ⟨[0x86#8, 0x00#8], rfl⟩)

/-- `EachRequestIsAnsweredOnce`: a state with the invariants, an input that decodes, and the step, for each case in
turn: a request rejected as busy and as invalid, one accepted, a report, a reset, another event; and an input that is
no instruction. -/
theorem witness_EachRequestIsAnsweredOnce :
    (∃ s w s1 t, Inv s ∧ fetch s = some (w, s1) ∧ decode w = .ok (.req 1#8 bundle0) ∧ step s = .next t ∧
        t.hostOut = [(1#8, .busy)]) ∧
      (∃ s w s1 t, Inv s ∧ fetch s = some (w, s1) ∧ decode w = .ok (.req 1#8 ReqBundle.zero) ∧ step s = .next t ∧
        t.hostOut = [(1#8, .invalidPayloadLength)]) ∧
      (∃ s w s1 t, Inv s ∧ fetch s = some (w, s1) ∧ decode w = .ok (.req 1#8 bundle0) ∧ step s = .next t ∧
        t.owner = some 1#8) ∧
      (∃ s w s1 t, Inv s ∧ fetch s = some (w, s1) ∧ decode w = .ok .resolveStep ∧ step s = .next t ∧
        t.owner = none) ∧
      (∃ s w s1 t, Inv s ∧ fetch s = some (w, s1) ∧ decode w = .ok (.resetReq 0#8) ∧ step s = .next t ∧
        t.hostOut = [(0#8, .commFailure .reset 0#8 .none)]) ∧
      (∃ s w s1 t, Inv s ∧ fetch s = some (w, s1) ∧ decode w = .ok (.wrOk 0#8) ∧ step s = .next t ∧ t.hostOut = []) ∧
      ∃ s t, Inv s ∧ step s = .next t ∧ ∀ w s1 i, fetch s = some (w, s1) → decode w ≠ .ok i :=
  ⟨⟨_, _, _, _, inv_with_inbox witness_Inv_tx [.ev 0x0101#16 bundle0], rfl, rfl, rfl, rfl⟩,
    ⟨_, _, _, _, inv_with_inbox witness_Inv_idle [.ev 0x0101#16 ReqBundle.zero], rfl, rfl, rfl, rfl⟩,
    ⟨_, _, _, _, inv_with_inbox witness_Inv_idle [.ev 0x0101#16 bundle0], rfl, rfl, rfl, rfl⟩,
    ⟨_, _, _, _, witness_Inv_resolved, rfl, rfl, rfl, rfl⟩,
    ⟨_, _, _, _, inv_with_inbox witness_Inv_tx [.ev 0x0900#16 ReqBundle.zero], rfl, rfl, rfl, rfl⟩,
    ⟨_, _, _, _, inv_with_inbox witness_Inv_tx [.ev 0x0400#16 ReqBundle.zero], rfl, rfl, rfl, rfl⟩,
    ⟨_, _, inv_with_inbox witness_Inv_tx [], rfl, fun _ _ _ h => nomatch h⟩⟩

/-- `OnlyFailedAttemptsEnterRetry`: each way in. -/
theorem witness_OnlyFailedAttemptsEnterRetry :
    after (fun t => t.st) (.txenErr 0#8) (busyIn .awaitEn 0#5 [] 0#9) = some .retry ∧
      after (fun t => t.st) (.wrErr 0#8) (busyIn .tx 0#5 [] 0#9) = some .retry ∧
      after (fun t => t.st) (.rxTimeout 0#8) (busyIn .awaitRsp 17#5 [] 0#9) = some .retry ∧
      after (fun t => t.st) (.rxErr 0#8) (busyIn .awaitRsp 17#5 [] 0#9) = some .retry ∧
      after (fun t => t.st) (.rxByte 0xEE#8) (busyIn .awaitRsp 17#5 respBody 17#9) = some .retry ∧
      after (fun t => t.st) (.rxByte 0x6B#8) (busyIn .awaitRsp 17#5 (resp18.take 17) 18#9) = some .retry := by
  decide

/-- `BuffersKeepTheirBytes`: a step that changes a byte of each buffer. -/
theorem witness_BuffersKeepTheirBytes :
    after (fun t => t.txf.read 16) (.req 0#8 bundle0) idle = some (some 0x6E#8) ∧ idle.txf.read 16 = none ∧
      after (fun t => t.rxb.read 0) (.rxByte 0x86#8) (busyIn .awaitRsp 17#5 [] 0#9) = some (some 0x86#8) ∧
      (busyIn .awaitRsp 17#5 [] 0#9).rxb.read 0 = none := by
  decide

/-- `FunctionCallsLeaveTheBlock`. -/
theorem witness_FunctionCallsLeaveTheBlock :
    let s : State := { busyIn .tx 1#5 [] 0#9 with inbox := [.fn 0x12#8 FnOperands.zero] }
    s.st.unused = false ∧ s.inbox = .fn 0x12#8 FnOperands.zero :: [] ∧
      decode (.fn 0x12#8 FnOperands.zero) = .ok (.xorFold []) :=
  ⟨rfl, rfl, rfl⟩

/-- `TransactionsTerminate`: an advancing step, and a step of a busy block that does not advance. -/
theorem witness_TransactionsTerminate :
    (∃ s t, Inv s ∧ exec (.wrOk 0#8) s = .next t ∧ advances s.st (.wrOk 0#8) = true) ∧
      ∃ s t, Inv s ∧ exec (.rxByte 0#8) s = .next t ∧ s.st ≠ .idle :=
  ⟨⟨_, _, (inv_with_inbox witness_Inv_tx []), rfl, rfl⟩, ⟨_, _, (inv_with_inbox witness_Inv_tx []), rfl, by decide⟩⟩

/-- `TransactionSucceeds`: program P1. -/
theorem witness_TransactionSucceeds :
    let inb : List Input :=
      [.ev (evWord 0x01#8 0#8) bundle0, .ev (evWord 0x02#8 0#8) ReqBundle.zero] ++
        List.replicate 17 (.ev (evWord 0x04#8 0#8) ReqBundle.zero) ++ responseEvents respR ++ [.internal]
    let s : State := { idle with inbox := inb }
    s.st = .idle ∧ bundle0.wf = true ∧ encodeFrame bundle0.addr bundle0.cmd bundle0.len bundle0.data = .ok frameF ∧
      decodeFrame respR = .ok dfR ∧ s.inbox = inb :=
  ⟨rfl, rfl, rfl, rfl, rfl⟩

/-- `RetryBound`: program P3. -/
theorem witness_RetryBound :
    let inb : List Input := .ev (evWord 0x01#8 0#8) bundle0 :: (timedOutAttempts 3 ++ [.internal])
    let s : State := { idle with inbox := inb }
    s.st = .idle ∧ bundle0.wf = true ∧ encodeFrame bundle0.addr bundle0.cmd bundle0.len bundle0.data = .ok frameF ∧
      s.inbox = .ev (evWord 0x01#8 0#8) bundle0 :: (timedOutAttempts (s.cfg.val.maxRetries + 1) ++ [.internal]) :=
  ⟨rfl, rfl, rfl, rfl⟩

/-- `WrittenBytesReadBack`: a write that ends at the end of each buffer, and an index just before it. -/
theorem witness_WrittenBytesReadBack :
    9 + zeros8.length ≤ Buffer.size .txf ∧ 256 + zeros8.length ≤ Buffer.size .rxb ∧ 8 < 9 := by
  decide

end Sys2Proof.Tests
end

section
/-! Which input the next step takes and what it runs: the schedule (00_scope.md R7; logs 1 and 3), and an input placed
in front of it (log 12). -/

namespace Sys2Proof.Machine

/-! ### The value of `st` -/

@[simp] theorem MacState.ofCode_code (a : MacState) : MacState.ofCode a.code = a := by
  cases a <;> rfl

@[simp] theorem MacState.code_ofCode (c : BitVec 3) : (MacState.ofCode c).code = c := by
  decide +revert

/-- `st` selects `RETRY_STEP` in `RETRY`, `RESOLVE_STEP` in `RESOLVED`, and nothing else (30_encoding.md R98). -/
theorem decode_st_ok {bits : BitVec 3} {i : Instr} (h : decode (.st bits) = .ok i) :
    (MacState.ofCode bits = .retry ∧ i = .retryStep) ∨ (MacState.ofCode bits = .resolved ∧ i = .resolveStep) := by
  rw [decode, decodeInternal] at h
  split at h
  · next hbits => exact .inl ⟨by simp [MacState.ofCode, hbits], (Except.ok.inj h).symm⟩
  · next hbits => exact .inr ⟨by simp [MacState.ofCode, hbits], (Except.ok.inj h).symm⟩
  · cases h

/-! ### The ports that carry no internal step -/

/-- The two instructions that `st` selects (30_encoding.md R98). -/
def isInternalStep : Instr → Bool
  | .retryStep => true
  | .resolveStep => true
  | _ => false

theorem decodeEvent_not_internal {evw : U16} {b : ReqBundle} {i : Instr} (h : decodeEvent evw b = .ok i) :
    isInternalStep i = false := by
  unfold decodeEvent at h
  split at h
  case h_1 =>
    unfold decodeReq at h
    split at h <;> cases h
    rfl
  case h_10 => cases h
  all_goals
    cases h
    rfl

theorem except_map_eq_ok {ε α β : Type} {f : α → β} {x : Except ε α} {b : β} (h : x.map f = .ok b) :
    ∃ a, x = .ok a ∧ f a = b := by
  cases x with
  | error e => cases h
  | ok a => exact ⟨a, rfl, Except.ok.inj h⟩

theorem decodeFunction_not_internal {code : Byte} {ops : FnOperands} {i : Instr}
    (h : decodeFunction code ops = .ok i) : isInternalStep i = false := by
  unfold decodeFunction at h
  split at h
  case h_3 | h_4 | h_5 =>
    obtain ⟨_, -, rfl⟩ := except_map_eq_ok h
    rfl
  case h_6 =>
    split at h <;> cases h
    rfl
  case h_7 => cases h
  all_goals
    cases h
    rfl

theorem decodeWire_not_internal {bytes : List Byte} {i : Instr} (h : decodeWire bytes = .ok i) :
    isInternalStep i = false := by
  unfold decodeWire at h
  split at h
  · cases h
    rfl
  · split at h
    · split at h <;> cases h
      rfl
    · cases h

/-! ### The schedule -/

/-- The words a scheduled input presents to the decoder; the turn of the internal step presents `st` (R98). -/
def presentedWords (st : MacState) : Input → Raw
  | .ev evw b => .ev evw b
  | .fn code ops => .fn code ops
  | .internal => .st st.code
  | .wire bytes => .wire bytes

/-- The first scheduled input is the one taken. -/
theorem fetch_scheduled {s : State} {x : Input} {rest : List Input} (h : s.inbox = x :: rest) :
    fetch s = some (presentedWords s.st x, { s with inbox := rest }) := by
  cases x <;> simp [fetch, h, presentedWords]

/-- With nothing scheduled, an internal step that `st` selects is taken, and nothing leaves the schedule. -/
theorem fetch_unscheduled {s : State} {i : Instr} (h : s.inbox = []) (hd : decode (.st s.st.code) = .ok i) :
    fetch s = some (.st s.st.code, s) := by
  obtain ⟨hst, -⟩ | ⟨hst, -⟩ := decode_st_ok hd
  all_goals
    rw [MacState.ofCode_code] at hst
    simp [fetch, h, hst]

theorem step_of_fetch_of_decode {s s1 : State} {w : Raw} {i : Instr} (hf : fetch s = some (w, s1))
    (hd : decode w = .ok i) : step s = exec i s1 :=
  (step_of_fetch hf).trans (runRaw_of_decode hd)

theorem step_scheduled {s : State} {x : Input} {rest : List Input} {i : Instr} (h : s.inbox = x :: rest)
    (hd : decode (presentedWords s.st x) = .ok i) : step s = exec i { s with inbox := rest } :=
  step_of_fetch_of_decode (fetch_scheduled h) hd

/-- Settles O4: `fetch` takes the first scheduled input, or with none the internal step that `st` selects. -/
theorem stepRunsTheDecodedInstruction : Obligations.StepRunsTheDecodedInstruction := fun _ _ _ =>
  ⟨fun _ _ h hd => step_scheduled h hd, fun _ _ h hd => step_scheduled h hd, fun _ h hd => step_scheduled h hd,
    fun h hd => step_scheduled h hd, fun h hd => step_of_fetch_of_decode (fetch_unscheduled h hd) hd⟩

/-! ### An input placed in front -/

/-- Words in front of the schedule run in a state with the schedule as it was. That state is the one they were placed
in, but for an internal step, whose `st` is set (log 12). -/
def RunsNext (s : State) (w : Raw) (i : Instr) : Prop :=
  ∃ s1, step (placeRaw s w) = exec i s1 ∧ s1.inbox = s.inbox ∧ (i ≠ .retryStep → i ≠ .resolveStep → s1 = s) ∧
    (i = .retryStep → s1.st = .retry) ∧ (i = .resolveStep → s1.st = .resolved)

theorem runsNext_of_external {s : State} {w : Raw} {i : Instr} (hstep : step (placeRaw s w) = exec i s)
    (hi : isInternalStep i = false) : RunsNext s w i := by
  refine ⟨s, hstep, rfl, fun _ _ => rfl, ?_, ?_⟩
  all_goals
    rintro rfl
    cases hi

@[simp] theorem placeRaw_st_inbox (s : State) (bits : BitVec 3) :
    (placeRaw s (.st bits)).inbox = .internal :: s.inbox := by
  simp only [placeRaw]
  split <;> rfl

@[simp] theorem placeRaw_st_st (s : State) (bits : BitVec 3) :
    (placeRaw s (.st bits)).st = MacState.ofCode bits := by
  simp only [placeRaw]
  split <;> rfl

theorem runsNext_st {s : State} {bits : BitVec 3} {i : Instr} (h : decode (.st bits) = .ok i) :
    RunsNext s (.st bits) i := by
  have hrun : step (placeRaw s (.st bits)) = exec i { placeRaw s (.st bits) with inbox := s.inbox } :=
    step_scheduled (placeRaw_st_inbox s bits) (by simpa [presentedWords] using h)
  refine ⟨_, hrun, rfl, ?_⟩
  obtain ⟨hst, rfl⟩ | ⟨hst, rfl⟩ := decode_st_ok h <;> simp [hst]

theorem runsNext_of_decode {s : State} {w : Raw} {i : Instr} (h : decode w = .ok i) : RunsNext s w i := by
  cases w with
  | ev evw b => exact runsNext_of_external (step_scheduled rfl h) (decodeEvent_not_internal h)
  | fn code ops => exact runsNext_of_external (step_scheduled rfl h) (decodeFunction_not_internal h)
  | st bits => exact runsNext_st h
  | wire bytes => exact runsNext_of_external (step_scheduled rfl h) (decodeWire_not_internal h)

theorem decode_of_decodeTableWord {nbits w : Nat} {i : Instr} (h : decodeTableWord nbits w = some i) :
    decode (rawOfTableWord nbits w) = .ok i := by
  unfold decodeTableWord at h
  cases hd : decode (rawOfTableWord nbits w) with
  | ok j => simpa [hd, Except.toOption] using h
  | error e => simp [hd, Except.toOption] at h

/-- Settles O5: a table word decodes as the words of its port do, and those run next. -/
theorem placedTableWordRunsNext : Obligations.PlacedTableWordRunsNext := fun _ _ _ _ h =>
  runsNext_of_decode (decode_of_decodeTableWord h)

end Sys2Proof.Machine
end
section
/-! What every step keeps. A step makes a move of `Moves` or changes the schedule only, so an invariant is a fact about
the moves. First the frames: the configuration, the buffers, and `st` in its legal values (10_state.md R25, R27, R29,
R36). -/

namespace Sys2Proof.Machine

open Sys2Proof.Safety

/-- What the moves and the schedule keep, every step keeps. -/
theorem step_preserves {P : State → Prop} {s t : State} (h : step s = .next t) (hs : P s)
    (inbox : ∀ (u : State) (inb : List Input), P u → P { u with inbox := inb })
    (moves : ∀ {u v : State} {i : Instr}, P u → Moves u i v → P v) : P t := by
  obtain ⟨-, -, rfl⟩ | ⟨w, s1, hf, hrun⟩ := step_next h
  · exact hs
  · have hs1 : P s1 := by
      rw [fetch_some hf]
      exact inbox s _ hs
    obtain ⟨i, -, hx⟩ | ⟨e, -, hr⟩ := hrun
    · exact moves hs1 (exec_moves hx)
    · rw [(rejected_next hr).2]
      exact inbox s1 _ hs1

/-! ### The fields no move writes -/

theorem Moves.cfg_eq {s t : State} {i : Instr} (h : Moves s i t) : t.cfg = s.cfg := by
  cases h <;> rfl

theorem Moves.carrier_eq {s t : State} {i : Instr} (h : Moves s i t) : t.carrier = s.carrier := by
  cases h <;> rfl

theorem step_carrier_eq {s t : State} (h : step s = .next t) : t.carrier = s.carrier :=
  step_preserves (P := fun u => u.carrier = s.carrier) h rfl (fun _ _ hu => hu) fun hu hm => hm.carrier_eq.trans hu

/-- Settles O50: no move writes `cfg`. -/
theorem configurationIsConstant : Obligations.ConfigurationIsConstant := fun s _ h =>
  step_preserves (P := fun u => u.cfg = s.cfg) h rfl (fun _ _ hu => hu) fun hu hm => hm.cfg_eq.trans hu

/-! ### The buffers -/

/-- `txf` is written by acceptance only: the frame, from index 0 on (43_mac_controller.md R133). -/
theorem Moves.txf_cases {s t : State} {i : Instr} (h : Moves s i t) :
    t.txf = s.txf ∨ s.st = .idle ∧ t.st = .awaitEn ∧ ∃ c b f, i = .req c b ∧
      encodeFrame b.addr b.cmd b.len b.data = .ok f ∧ t.txf = s.txf.writeBytes 0 f := by
  cases h with
  | reqAccepted hst hf => exact .inr ⟨hst, rfl, _, _, _, rfl, hf, rfl⟩
  | _ => exact .inl rfl

/-- `rxb` is written by a response byte only, at `rx_cnt` (R145). -/
theorem Moves.rxb_cases {s t : State} {i : Instr} (h : Moves s i t) :
    t.rxb = s.rxb ∨ s.st = .awaitRsp ∧ ∃ b, i = .rxByte b ∧ t.rxb = s.rxb.write s.rxCnt.toNat b := by
  cases h with
  | byteReceived hst | frameAccepted hst | frameRefused hst => exact .inr ⟨hst, _, rfl, rfl⟩
  | _ => exact .inl rfl

theorem length_frameBody (addr : Address) (cmd len : Byte) (data : List Byte) :
    (frameBody addr cmd len data).length = 8 + data.length := by
  simp [frameBody, serAddr]
  omega

theorem length_of_encodeFrame {addr : Address} {cmd len : Byte} {data f : List Byte}
    (h : encodeFrame addr cmd len data = .ok f) : f.length = 17 := by
  unfold encodeFrame at h
  split at h
  · next hlen =>
    cases h
    simp [length_frameBody, hlen.2]
  · cases h

/-- Settles O51: an index of `txf` that reads otherwise is one of the accepted frame's, one of `rxb` is `rx_cnt`. -/
theorem buffersKeepTheirBytes : Obligations.BuffersKeepTheirBytes := by
  intro s t i h
  refine ⟨fun j hj => ?_, fun j hj => ?_⟩
  · obtain htxf | ⟨hs, ht, c, b, f, hi, hf, htxf⟩ := (exec_moves h).txf_cases
    · exact absurd (by rw [htxf]) hj
    · have hread : t.txf.read j = if j < 17 then f[j]? else s.txf.read j := by
        simp [htxf, read_writeBytes, length_of_encodeFrame hf]
      by_cases hlt : j < 17
      · exact ⟨hlt, hs, ht, c, b, f, hi, hf, by rw [hread, if_pos hlt]⟩
      · exact absurd (by rw [hread, if_neg hlt]) hj
  · obtain hrxb | ⟨hs, b, hi, hrxb⟩ := (exec_moves h).rxb_cases
    · exact absurd (by rw [hrxb]) hj
    · refine ⟨?_, hs, b, hi⟩
      by_contra hne
      exact hj (by rw [hrxb, read_write_other _ _ hne])

/-! ### The unused values of `st` -/

/-- A move leads to one of the six legal values, or leaves `st` as it is. -/
theorem Moves.legal {s t : State} {i : Instr} (hs : s.st.unused = false) (h : Moves s i t) : t.st.unused = false := by
  cases h with
  | stray | reqBusy | reqRejected | byteWritten | byteReceived | answered | delivered => exact hs
  | _ => rfl

theorem readSequence_length {buf bs : List Byte} (h : readSequence buf = .ok bs) : bs.length ≤ Config.rxMax := by
  unfold readSequence at h
  split at h
  · cases h
    assumption
  · cases h

theorem readData_length {len : Byte} {data bs : List Byte} (h : readData len data = .ok bs) :
    bs.length = len.toNat := by
  unfold readData at h
  split at h
  · cases h
  · cases h
    simp
    omega

theorem decodeEvent_wf {evw : U16} {b : ReqBundle} {i : Instr} (h : decodeEvent evw b = .ok i) : i.wf = true := by
  unfold decodeEvent at h
  split at h
  case h_1 =>
    unfold decodeReq at h
    split at h <;> cases h
    next hdata => simpa [Instr.wf, ReqBundle.wf] using readData_length hdata
  case h_10 => cases h
  all_goals
    cases h
    rfl

theorem decodeFunction_wf {code : Byte} {ops : FnOperands} {i : Instr} (h : decodeFunction code ops = .ok i) :
    i.wf = true := by
  unfold decodeFunction at h
  split at h
  case h_3 | h_5 =>
    obtain ⟨bs, hbs, rfl⟩ := except_map_eq_ok h
    simpa [Instr.wf] using readSequence_length hbs
  case h_4 =>
    obtain ⟨bs, hbs, rfl⟩ := except_map_eq_ok h
    simpa [Instr.wf] using readData_length hbs
  case h_6 =>
    split at h <;> cases h
    simpa [Instr.wf]
  case h_7 => cases h
  all_goals
    cases h
    rfl

theorem decodeWire_wf {bytes : List Byte} {i : Instr} (h : decodeWire bytes = .ok i) : i.wf = true := by
  unfold decodeWire at h
  split at h
  · cases h
    rfl
  · split at h
    · split at h <;> cases h
      rfl
    · cases h

/-- What decodes is well formed: its operands are ones the port can carry (30_encoding.md R91). -/
theorem wf_of_decode {w : Raw} {i : Instr} (h : decode w = .ok i) : i.wf = true := by
  cases w with
  | ev evw b => exact decodeEvent_wf h
  | fn code ops => exact decodeFunction_wf h
  | st bits => obtain ⟨-, rfl⟩ | ⟨-, rfl⟩ := decode_st_ok h <;> rfl
  | wire bytes => exact decodeWire_wf h

/-- Every instruction with operands a port can carry is guarded by the legality of `st`. -/
theorem exec_unused {s : State} (hs : s.st.unused = true) {i : Instr} (hi : i.wf = true) :
    exec i s = .refused .unusedState := by
  cases i with
  | xorFold bs =>
    rw [exec, execXorFold, if_pos (by simpa [Instr.wf] using hi)]
    exact inLegalState_of_unused hs _
  | encodeFn a c l d =>
    simp only [exec, execEncode]
    split <;> exact inLegalState_of_unused hs _
  | decodeFn bs =>
    rw [exec, execDecode, if_pos (by simpa [Instr.wf] using hi)]
    split <;> exact inLegalState_of_unused hs _
  | diagMap d =>
    rw [exec, execDiagMap, if_pos (by simpa [Instr.wf] using hi)]
    exact inLegalState_of_unused hs _
  | _ => exact inLegalState_of_unused hs _

theorem rejected_unused {s : State} (hs : s.st.unused = true) (e : Reject) :
    rejected e s = .refused .unusedState := by
  cases e <;> exact inLegalState_of_unused hs _

theorem step_unused {s : State} (hs : s.st.unused = true) : step s = .refused .unusedState := by
  cases hf : fetch s with
  | none =>
    rw [step, hf]
    exact inLegalState_of_unused hs _
  | some x =>
    obtain ⟨w, s1⟩ := x
    have hs1 : s1.st.unused = true := by
      rw [fetch_some hf]
      exact hs
    rw [step_of_fetch hf]
    cases hd : decode w with
    | ok i => rw [runRaw_of_decode hd, exec_unused hs1 (wf_of_decode hd)]
    | error e => rw [runRaw_of_reject hd, rejected_unused hs1 e]

/-- Settles O9: a state with an unused value is refused, so a step that goes on starts in a legal one, and the moves
lead from there to legal ones. -/
theorem unusedStatesAreRefusedAndNeverEntered : Obligations.UnusedStatesAreRefusedAndNeverEntered := by
  refine ⟨fun s hs => step_unused hs, fun s t h => ?_⟩
  have hs : s.st.unused = false := by
    by_contra hu
    rw [step_unused (by simpa using hu)] at h
    cases h
  exact ⟨hs, step_preserves (P := fun u => u.st.unused = false) h hs (fun _ _ hu => hu) Moves.legal⟩

end Sys2Proof.Machine
end
section
/-! The invariants of the reachable states (10_state.md R40, R41): they hold at reset, and every move keeps them. One
lemma for each value of `st` that a move can lead to, and one for the fields the invariants do not speak of. -/

namespace Sys2Proof.Safety

open Sys2Proof.Machine

/-! ### What they say of the owner and the result -/

theorem Inv.owner_isSome {s : State} (h : Inv s) (hb : s.st ≠ .idle) : s.owner.isSome = true := by
  rw [h.owner_iff_busy, busy]
  simpa using hb

theorem Inv.res_none {s : State} (h : Inv s) (hr : s.st ≠ .resolved) : s.res = none := by
  rw [← Option.not_isSome_iff_eq_none, h.res_iff_resolved]
  exact hr

/-! ### Entering each value of `st` -/

/-- The invariants do not speak of the ports. -/
theorem Inv.with_ports {s : State} (h : Inv s) {inb : List Input} {host : List (Byte × TransactionResult)}
    {phy : List PhyCall} {fn : List FnAnswer} :
    Inv { s with inbox := inb, hostOut := host, phyOut := phy, fnOut := fn } := { h with }

/-- All the invariants ask in `IDLE`. -/
theorem inv_idle {s : State} (hst : s.st = .idle) (howner : s.owner = none) (hres : s.res = none)
    (hclear : s.txIdx = 0 ∧ s.rxCnt = 0 ∧ s.rxExp = 0) (hretry : s.retryCnt.toNat ≤ s.cfg.val.maxRetries + 1)
    (htxf : s.txf.wf .txf = true) (hrxb : s.rxb.wf .rxb = true) : Inv s := by
  obtain ⟨htx, hcnt, hexp⟩ := hclear
  constructor <;> simp [hst, howner, hres, htx, hcnt, hexp, hretry, htxf, hrxb, busy, waitsForPhy, MacState.unused]

/-- All the invariants ask in `AWAIT_EN` at the start of an attempt. -/
theorem inv_awaitEn {s : State} (hst : s.st = .awaitEn) (howner : s.owner.isSome = true) (hres : s.res = none)
    (hclear : s.txIdx = 0 ∧ s.rxCnt = 0 ∧ s.rxExp = 0) (hretry : s.retryCnt.toNat ≤ s.cfg.val.maxRetries)
    (htxf : s.txf.wf .txf = true) (hrxb : s.rxb.wf .rxb = true) (hfilled : Filled s.txf 17) : Inv s := by
  obtain ⟨htx, hcnt, hexp⟩ := hclear
  constructor <;>
    simp [hst, howner, hres, htx, hcnt, hexp, hretry, htxf, hrxb, hfilled, busy, MacState.unused, Nat.le_succ_of_le]

/-- Sending starts. -/
theorem Inv.start_tx {s : State} (h : Inv s) (hst : s.st = .awaitEn) : Inv { s with txIdx := 0, st := .tx } :=
  { h with
    legal := rfl
    owner_iff_busy := h.owner_isSome (by simp [hst])
    res_iff_resolved := by simp [h.res_none, hst]
    tx_bound := fun _ => by simp
    rx_shape := nofun
    attempt_budget := fun _ => h.attempt_budget (by simp [hst, waitsForPhy])
    retry_budget := nofun
    idle_clear := nofun
    tx_range := by simp
    txf_filled := fun _ => h.txf_filled (by simp [hst])
    rxb_filled := nofun }

/-- A byte is sent and another is left. -/
theorem Inv.with_txIdx {s : State} (h : Inv s) (hb : s.st ≠ .idle) {n : BitVec 5} (hn : n.toNat < 17) :
    Inv { s with txIdx := n } :=
  { h with
    tx_bound := fun _ => hn
    tx_range := hn.le
    idle_clear := fun hi => absurd hi hb }

/-- The frame is sent and the response awaited. -/
theorem Inv.start_rx {s : State} (h : Inv s) (hst : s.st = .tx) {n : BitVec 5} (hn : n.toNat ≤ 17) :
    Inv { s with txIdx := n, rxCnt := 0, rxExp := 0, st := .awaitRsp } :=
  { h with
    legal := rfl
    owner_iff_busy := h.owner_isSome (by simp [hst])
    res_iff_resolved := by simp [h.res_none, hst]
    tx_bound := nofun
    rx_shape := fun _ => by simp
    attempt_budget := fun _ => h.attempt_budget (by simp [hst, waitsForPhy])
    retry_budget := nofun
    idle_clear := nofun
    tx_range := hn
    rx_range := by simp
    exp_range := by simp
    txf_filled := fun _ => h.txf_filled (by simp [hst])
    rxb_filled := fun _ => by simp [Filled] }

/-- The receive fields of a busy block, where they stay in their ranges, and in `AWAIT_RSP` in shape and filled. -/
theorem Inv.with_rx {s : State} (h : Inv s) (hb : s.st ≠ .idle) {m : Memory} {cnt exp : U9}
    (hm : m.wf .rxb = true) (hcnt : cnt.toNat ≤ 264)
    (hexp : exp.toNat = 0 ∨ (9 ≤ exp.toNat ∧ exp.toNat ≤ 264))
    (hrsp : s.st = .awaitRsp → Filled m cnt.toNat ∧
      ((exp.toNat = 0 ∧ cnt.toNat < 8) ∨ (9 ≤ exp.toNat ∧ cnt.toNat < exp.toNat))) :
    Inv { s with rxb := m, rxCnt := cnt, rxExp := exp } :=
  { h with
    rx_shape := fun hs => (hrsp hs).2
    idle_clear := fun hi => absurd hi hb
    rx_range := hcnt
    exp_range := hexp
    rxb_wf := hm
    rxb_filled := fun hs => (hrsp hs).1 }

/-- The attempt fails, with a cause (60_exceptions.md R170). -/
theorem Inv.fail {s : State} (h : Inv s) (hw : waitsForPhy s.st = true) {c : Cause} (hc : c ≠ .none) :
    Inv { s with lastCause := c, st := .retry } :=
  have hb : s.st ≠ .idle := fun hi => by simp [hi, waitsForPhy] at hw
  have hr : s.st ≠ .resolved := fun hi => by simp [hi, waitsForPhy] at hw
  { h with
    legal := rfl
    owner_iff_busy := h.owner_isSome hb
    res_iff_resolved := by simp [h.res_none hr]
    tx_bound := nofun
    rx_shape := nofun
    attempt_budget := nofun
    retry_budget := fun _ => ⟨h.attempt_budget hw, hc⟩
    idle_clear := nofun
    txf_filled := fun _ => h.txf_filled hb
    rxb_filled := nofun }

/-- The transaction has its result (43_mac_controller.md R145, R155). -/
theorem Inv.resolve {s : State} (h : Inv s) (hb : s.st ≠ .idle) {n : Byte}
    (hn : n.toNat ≤ s.cfg.val.maxRetries + 1) {r : TransactionResult} (hr : endsTransaction r = true) :
    Inv { s with retryCnt := n, res := some r, st := .resolved } :=
  { h with
    legal := rfl
    owner_iff_busy := h.owner_isSome hb
    res_iff_resolved := by simp
    res_final := fun _ he => Option.some.inj he ▸ hr
    tx_bound := nofun
    rx_shape := nofun
    attempt_budget := nofun
    retry_budget := nofun
    retry_bound := hn
    idle_clear := nofun
    txf_filled := fun _ => h.txf_filled hb
    rxb_filled := nofun }

/-! ### A response byte -/

/-- `9 + byteCount` needs the ninth bit and no more (30_encoding.md R78). -/
theorem frameLength_toNat (b : Byte) : (frameLength b).toNat = 9 + b.toNat := by
  have := b.isLt
  simp [frameLength, BitVec.toNat_add]
  omega

theorem stored_rxCnt_toNat {s : State} (hl : s.rxCnt.toNat < 264) (b : Byte) :
    (stored b s).rxCnt.toNat = s.rxCnt.toNat + 1 := by
  simp [BitVec.toNat_add]
  omega

theorem stored_rxExp_toNat {s : State} (hl : s.rxCnt.toNat < 264) (b : Byte) :
    (stored b s).rxExp.toNat = if s.rxCnt.toNat = 7 then 9 + b.toNat else s.rxExp.toNat := by
  have h8 : s.rxCnt + 1 = 8#9 ↔ s.rxCnt.toNat = 7 := by bv_omega
  rw [countByte_rxExp, apply_ite BitVec.toNat, frameLength_toNat]
  simp only [h8]

/-- After a byte the count has not passed the expected length (10_state.md R41(c)). -/
theorem stored_rx_shape {s : State} (h : Inv s) (hst : s.st = .awaitRsp) (hl : s.rxCnt.toNat < 264) (b : Byte) :
    ((stored b s).rxExp.toNat = 0 ∧ (stored b s).rxCnt.toNat < 8) ∨
      (9 ≤ (stored b s).rxExp.toNat ∧ (stored b s).rxExp.toNat ≤ 264 ∧
        (stored b s).rxCnt.toNat ≤ (stored b s).rxExp.toNat) := by
  have hb := b.isLt
  have hshape := h.rx_shape hst
  have hrange := h.exp_range
  rw [stored_rxCnt_toNat hl, stored_rxExp_toNat hl]
  split <;> omega

theorem stored_filled {s : State} (h : Inv s) (hst : s.st = .awaitRsp) (hl : s.rxCnt.toNat < 264) (b : Byte) :
    Filled (stored b s).rxb (stored b s).rxCnt.toNat := by
  intro j hj
  rw [stored_rxCnt_toNat hl] at hj
  rw [countByte_rxb, read_write]
  split
  · rfl
  · exact h.rxb_filled hst j (by omega)

/-- Stored in a state `u` with the invariants that is busy and, if it still waits for the response, short of its end. -/
theorem Inv.with_stored {s u : State} (h : Inv s) (hst : s.st = .awaitRsp) (hl : s.rxCnt.toNat < 264) (b : Byte)
    (hu : Inv u) (hb : u.st ≠ .idle)
    (hshort : u.st = .awaitRsp → frameComplete (stored b s) = false) :
    Inv { u with rxb := (stored b s).rxb, rxCnt := (stored b s).rxCnt, rxExp := (stored b s).rxExp } := by
  have hshape := stored_rx_shape h hst hl b
  refine hu.with_rx hb (write_keeps_wf _ _ h.rxb_wf hl) ?_ ?_ fun hs => ⟨stored_filled h hst hl b, ?_⟩
  · rw [stored_rxCnt_toNat hl]
    exact hl
  · omega
  · have hc := hshort hs
    simp only [frameComplete, Bool.and_eq_false_iff, bne_eq_false_iff_eq, beq_eq_false_iff_ne] at hc
    bv_omega

/-! ### The moves -/

theorem inv_acceptRequest {s : State} (h : Inv s) (c : Byte) {b : ReqBundle} {f : List Byte}
    (hf : encodeFrame b.addr b.cmd b.len b.data = .ok f) : Inv (acceptRequest c f s) := by
  have hlen : f.length = 17 := length_of_encodeFrame hf
  refine inv_awaitEn rfl rfl rfl ⟨rfl, rfl, rfl⟩ (by simp) ?_ h.rxb_wf ?_
  · exact writeBytes_keeps_wf _ _ h.txf_wf (by simp [hlen])
  · intro j hj
    simp [read_writeBytes, hlen, hj]

theorem inv_clearForReset {s : State} (h : Inv s) : Inv (clearForReset s) :=
  inv_idle rfl rfl rfl ⟨rfl, rfl, rfl⟩ (by simp) h.txf_wf h.rxb_wf

theorem inv_afterReport {s : State} (h : Inv s) : Inv (afterReport s) :=
  inv_idle rfl rfl rfl ⟨rfl, rfl, rfl⟩ h.retry_bound h.txf_wf h.rxb_wf

theorem inv_retryAgain {s : State} (h : Inv s) (hst : s.st = .retry)
    (hn : (s.retryCnt + 1).toNat ≤ s.cfg.val.maxRetries) :
    Inv { s with retryCnt := s.retryCnt + 1, txIdx := 0, rxCnt := 0, rxExp := 0, st := .awaitEn } :=
  inv_awaitEn rfl (h.owner_isSome (by simp [hst])) (h.res_none (by simp [hst])) ⟨rfl, rfl, rfl⟩ hn h.txf_wf h.rxb_wf
    (h.txf_filled (by simp [hst]))

/-- The counter of an exhausted transaction is within one of the budget (10_state.md R41(e), (f)). -/
theorem retryCnt_succ_le {s : State} (h : Inv s) (hst : s.st = .retry) :
    (s.retryCnt + 1).toNat ≤ s.cfg.val.maxRetries + 1 := by
  have hbudget := (h.retry_budget hst).1
  have hle : (s.retryCnt + 1).toNat ≤ s.retryCnt.toNat + 1 := by
    rw [BitVec.toNat_add]
    exact Nat.mod_le _ _
  omega

/-- Every move keeps the invariants. -/
theorem inv_of_moves {s t : State} {i : Instr} (h : Inv s) (hm : Moves s i t) : Inv t := by
  cases hm with
  | stray => exact h
  | reqBusy | reqRejected | answered | delivered => exact h.with_ports
  | reqAccepted hst hf => exact (inv_acceptRequest h _ hf).with_ports
  | enabled hst => exact (h.start_tx hst).with_ports
  | byteWritten hst hn hl => exact (h.with_txIdx (by simp [hst]) hl).with_ports
  | frameWritten hst hn =>
    have hle : (s.txIdx + 1).toNat ≤ 17 := by
      rw [hn]
      decide
    exact (h.start_rx hst hle).with_ports
  | enableFailed hst | writeFailed hst | timedOut hst | readFailed hst =>
    exact h.fail (by simp [hst, waitsForPhy]) (by simp)
  | byteReceived hst hl hc => exact (h.with_stored hst hl _ h (by simp [hst]) fun _ => hc).with_ports
  | @frameAccepted _ _ df hst hl =>
    have hu := h.resolve (r := .success df (diagMap s.cfg.val.flagMap df.data) s.retryCnt s.lastCause)
      (by simp [hst]) h.retry_bound rfl
    exact h.with_stored hst hl _ hu (by simp) nofun
  | @frameRefused _ _ e hst hl =>
    have hcause : causeOfFrameError e ≠ .none := by cases e <;> simp [causeOfFrameError]
    exact h.with_stored hst hl _ (h.fail (by simp [hst, waitsForPhy]) hcause) (by simp) nofun
  | resetIdle => exact inv_clearForReset h
  | resetBusy => exact inv_clearForReset h.with_ports
  | retryAgain hst hb => exact (inv_retryAgain h hst hb).with_ports
  | retryEnd hst => exact h.resolve (by simp [hst]) (retryCnt_succ_le h hst) rfl
  | reported => exact inv_afterReport h.with_ports

/-- Settles O44: the moves keep the invariants, and the schedule is none of their fields. -/
theorem everyStepKeepsTheInvariants : Obligations.EveryStepKeepsTheInvariants := fun _ _ h hstep =>
  step_preserves hstep h (fun _ inb hu => inv_with_inbox hu inb) inv_of_moves

/-- Settles O45: the reset state meets all that `IDLE` asks. -/
theorem invariantsHoldAtReset : Obligations.InvariantsHoldAtReset := fun p =>
  inv_idle rfl rfl rfl ⟨rfl, rfl, rfl⟩ (Nat.zero_le _) (reset_buffers_wf p).1 (reset_buffers_wf p).2

end Sys2Proof.Safety
end
section
/-! The carrier line is read by nothing (10_state.md R43; log 13): each operation, with the line at another level, ends
as it does without, with the line at that level. -/

namespace Sys2Proof.Machine

/-- The state with the carrier line at a level. -/
def State.withCarrier (x : Bool) (s : State) : State := { s with carrier := x }

/-- The same end of a step, with the carrier line at a level. -/
def outWithCarrier (x : Bool) : Out → Out
  | .next t => .next (t.withCarrier x)
  | .fault f => .fault f
  | .refused r => .refused r

/-! ### The shared operations -/

theorem ite_withCarrier {p : Prop} [Decidable p] {x : Bool} {k k' l l' : Out} (hk : k' = outWithCarrier x k)
    (hl : l' = outWithCarrier x l) : (if p then k' else l') = outWithCarrier x (if p then k else l) := by
  rw [hk, hl, apply_ite (outWithCarrier x)]

theorem inLegalState_withCarrier {x : Bool} {s : State} {k k' : Out} (hk : k' = outWithCarrier x k) :
    inLegalState (s.withCarrier x) k' = outWithCarrier x (inLegalState s k) :=
  ite_withCarrier rfl hk

theorem onAnswer_withCarrier {e : MacState} {x : Bool} {s : State} {k k' : Out} (hk : k' = outWithCarrier x k) :
    onAnswer e (s.withCarrier x) k' = outWithCarrier x (onAnswer e s k) :=
  inLegalState_withCarrier (ite_withCarrier hk rfl)

theorem answerFn_withCarrier (a : FnAnswer) (x : Bool) (s : State) :
    answerFn a (s.withCarrier x) = outWithCarrier x (answerFn a s) :=
  inLegalState_withCarrier rfl

theorem deliverWire_withCarrier (bs : List Byte) (x : Bool) (s : State) :
    deliverWire bs (s.withCarrier x) = outWithCarrier x (deliverWire bs s) :=
  inLegalState_withCarrier rfl

theorem issueCall_withCarrier (x : Bool) (s : State) :
    issueCall (s.withCarrier x) = outWithCarrier x (issueCall s) := by
  have hcall : phyCall (s.withCarrier x) = phyCall s := rfl
  simp only [issueCall, hcall]
  split <;> rfl

theorem failAttempt_withCarrier (c : Cause) (x : Bool) (s : State) :
    failAttempt c (s.withCarrier x) = outWithCarrier x (failAttempt c s) :=
  issueCall_withCarrier x { s with lastCause := c, st := .retry }

theorem returnFromError_withCarrier (x : Bool) (s : State) :
    returnFromError (s.withCarrier x) = outWithCarrier x (returnFromError s) := by
  by_cases h : (s.retryCnt + 1).toNat ≤ s.cfg.val.maxRetries
  · rw [returnFromError_again h]
    exact returnFromError_again h
  · rw [returnFromError_end h]
    exact returnFromError_end h

/-! ### The instructions -/

theorem requestInIdle_withCarrier (c : Byte) (b : ReqBundle) (x : Bool) (s : State) :
    requestInIdle c b (s.withCarrier x) = outWithCarrier x (requestInIdle c b s) := by
  unfold requestInIdle
  split
  · exact issueCall_withCarrier x (acceptRequest c _ s)
  · rfl

theorem execReq_withCarrier (c : Byte) (b : ReqBundle) (x : Bool) (s : State) :
    execReq c b (s.withCarrier x) = outWithCarrier x (execReq c b s) :=
  inLegalState_withCarrier (ite_withCarrier rfl (requestInIdle_withCarrier c b x s))

theorem execWrOk_withCarrier (ign : Byte) (x : Bool) (s : State) :
    execWrOk ign (s.withCarrier x) = outWithCarrier x (execWrOk ign s) :=
  onAnswer_withCarrier (ite_withCarrier
    (issueCall_withCarrier x { s with txIdx := s.txIdx + 1, rxCnt := 0, rxExp := 0, st := .awaitRsp })
    (issueCall_withCarrier x { s with txIdx := s.txIdx + 1 }))

theorem completeResponse_withCarrier (bytes : List Byte) (x : Bool) (s : State) :
    completeResponse bytes (s.withCarrier x) = outWithCarrier x (completeResponse bytes s) := by
  unfold completeResponse
  split
  · exact issueCall_withCarrier x { s with res := some (.success _ _ s.retryCnt s.lastCause), st := .resolved }
  · exact failAttempt_withCarrier _ x s

theorem receiveByte_withCarrier (b : Byte) (x : Bool) (s : State) :
    receiveByte b (s.withCarrier x) = outWithCarrier x (receiveByte b s) := by
  simp only [receiveByte, State.withCarrier]
  split
  · rfl
  · next mem _ =>
    refine ite_withCarrier ?_ (issueCall_withCarrier x (countByte b mem s))
    simp only [countByte_rxb, countByte_rxCnt]
    split
    · rfl
    · exact completeResponse_withCarrier _ x (countByte b mem s)

theorem abandon_withCarrier (x : Bool) (s : State) : abandon (s.withCarrier x) = outWithCarrier x (abandon s) := by
  simp only [abandon, State.withCarrier]
  split <;> rfl

theorem execResetReq_withCarrier (ign : Byte) (x : Bool) (s : State) :
    execResetReq ign (s.withCarrier x) = outWithCarrier x (execResetReq ign s) :=
  inLegalState_withCarrier (ite_withCarrier (abandon_withCarrier x s) rfl)

theorem execXorFold_withCarrier (bs : List Byte) (x : Bool) (s : State) :
    execXorFold bs (s.withCarrier x) = outWithCarrier x (execXorFold bs s) :=
  ite_withCarrier (answerFn_withCarrier _ x s) rfl

theorem execEncode_withCarrier (a : Address) (c l : Byte) (d : List Byte) (x : Bool) (s : State) :
    execEncode a c l d (s.withCarrier x) = outWithCarrier x (execEncode a c l d s) := by
  unfold execEncode
  split <;> exact answerFn_withCarrier _ x s

theorem execDecode_withCarrier (bs : List Byte) (x : Bool) (s : State) :
    execDecode bs (s.withCarrier x) = outWithCarrier x (execDecode bs s) := by
  refine ite_withCarrier ?_ rfl
  split <;> exact answerFn_withCarrier _ x s

theorem execDiagMap_withCarrier (d : List Byte) (x : Bool) (s : State) :
    execDiagMap d (s.withCarrier x) = outWithCarrier x (execDiagMap d s) :=
  ite_withCarrier (answerFn_withCarrier _ x s) rfl

theorem execRetryStep_withCarrier (x : Bool) (s : State) :
    execRetryStep (s.withCarrier x) = outWithCarrier x (execRetryStep s) :=
  inLegalState_withCarrier (ite_withCarrier (returnFromError_withCarrier x s) rfl)

theorem reportResult_withCarrier (x : Bool) (s : State) :
    reportResult (s.withCarrier x) = outWithCarrier x (reportResult s) := by
  simp only [reportResult, State.withCarrier]
  split <;> rfl

theorem execResolveStep_withCarrier (x : Bool) (s : State) :
    execResolveStep (s.withCarrier x) = outWithCarrier x (execResolveStep s) :=
  inLegalState_withCarrier (ite_withCarrier (reportResult_withCarrier x s) rfl)

theorem exec_withCarrier (i : Instr) (x : Bool) (s : State) :
    exec i (s.withCarrier x) = outWithCarrier x (exec i s) := by
  cases i with
  | req c b => exact execReq_withCarrier c b x s
  | txenOk _ => exact onAnswer_withCarrier (issueCall_withCarrier x { s with txIdx := 0, st := .tx })
  | txenErr _ | wrErr _ | rxTimeout _ | rxErr _ => exact onAnswer_withCarrier (failAttempt_withCarrier _ x s)
  | wrOk ign => exact execWrOk_withCarrier ign x s
  | rxByte b => exact onAnswer_withCarrier (receiveByte_withCarrier b x s)
  | resetReq ign => exact execResetReq_withCarrier ign x s
  | bfTest _ _ | bfSet _ _ => exact answerFn_withCarrier _ x s
  | xorFold bs => exact execXorFold_withCarrier bs x s
  | encodeFn a c l d => exact execEncode_withCarrier a c l d x s
  | decodeFn bs => exact execDecode_withCarrier bs x s
  | diagMap d => exact execDiagMap_withCarrier d x s
  | retryStep => exact execRetryStep_withCarrier x s
  | resolveStep => exact execResolveStep_withCarrier x s
  | delimStxUnique | cmd48Frame _ _ _ _ => exact deliverWire_withCarrier _ x s

/-! ### The step -/

theorem rejected_withCarrier (e : Reject) (x : Bool) (s : State) :
    rejected e (s.withCarrier x) = outWithCarrier x (rejected e s) := by
  cases e <;> exact inLegalState_withCarrier rfl

theorem runRaw_withCarrier (w : Raw) (x : Bool) (s : State) :
    runRaw w (s.withCarrier x) = outWithCarrier x (runRaw w s) := by
  unfold runRaw
  split
  · exact exec_withCarrier _ x s
  · exact rejected_withCarrier _ x s

theorem fetch_withCarrier (x : Bool) (s : State) :
    fetch (s.withCarrier x) = (fetch s).map (Prod.map id (State.withCarrier x)) := by
  simp only [fetch, State.withCarrier]
  split
  · split <;> rfl
  all_goals rfl

theorem step_withCarrier (x : Bool) (s : State) : step (s.withCarrier x) = outWithCarrier x (step s) := by
  rw [step, step, fetch_withCarrier]
  cases fetch s with
  | none => exact inLegalState_withCarrier rfl
  | some p => exact runRaw_withCarrier p.1 x p.2

/-- Settles O43: the step with the line at another level is the same step, and no move writes the line. -/
theorem carrierIsNeverRead : Obligations.CarrierIsNeverRead := by
  intro s x
  have h : step { s with carrier := x } = outWithCarrier x (step s) := step_withCarrier x s
  refine ⟨fun t ht => ⟨step_carrier_eq ht, ?_⟩, fun f hf => ?_, fun r hr => ?_⟩
  · rw [h, ht]
    rfl
  · rw [h, hf]
    rfl
  · rw [h, hr]
    rfl

end Sys2Proof.Machine
end
section
/-! The views of the state: `STATUS` (10_state.md R38), and power-on reset (R44; 70_reset_and_hazards.md R186). -/

namespace Sys2Proof.Machine

theorem Cause.code_lt (c : Cause) : c.code.toNat < 5 := by
  cases c <;> decide

/-- With nothing scheduled, a block in `IDLE` waits. -/
theorem step_idle_of_unscheduled {s : State} (hst : s.st = .idle) (hin : s.inbox = []) : step s = .next s := by
  have hf : fetch s = none := by simp [fetch, hin, hst]
  rw [step, hf]
  exact inLegalState_of_legal (by simp [hst, MacState.unused]) _

theorem statusWord_resetOf (p : Config.Params) : statusWord (State.resetOf p) = 0#32 := by
  simp [statusWord, State.resetOf, bit, busy, MacState.code, Cause.code]

/-- Settles O56: the fields are those of `State.resetOf`; with nothing scheduled the block in `IDLE` waits. -/
theorem powerOnReset : Obligations.PowerOnReset :=
  ⟨rfl, fun _ => ⟨rfl, rfl, rfl, rfl, rfl, rfl, rfl, rfl, read_nil, read_nil, rfl, rfl, phyCall_none rfl,
    statusWord_resetOf _, step_idle_of_unscheduled rfl rfl⟩⟩

theorem getLsbD_bit (b : Bool) (j : Nat) : (bit b).getLsbD j = (decide (j = 0) && b) := by
  cases b <;> cases j <;> simp [bit]

/-- Bit `j` of `STATUS`, from the field it lies in. -/
theorem getLsbD_statusWord (s : State) (j : Nat) :
    (statusWord s).getLsbD j =
      if j < 3 then s.st.code.getLsbD j
      else if j = 3 then busy s
      else if j < 7 then s.lastCause.code.getLsbD (j - 4)
      else if j = 7 then s.res.isSome
      else if j < 16 then s.retryCnt.getLsbD (j - 8)
      else if j < 21 then s.txIdx.getLsbD (j - 16)
      else if j < 30 then s.rxCnt.getLsbD (j - 21)
      else false := by
  simp only [statusWord, BitVec.getLsbD_append, getLsbD_bit]
  grind

/-- A field of `STATUS` reads as the value whose bits stand there. -/
theorem extractLsb'_statusWord {s : State} {lo n : Nat} {v : BitVec n}
    (h : ∀ j, j < n → (statusWord s).getLsbD (lo + j) = v.getLsbD j) : (statusWord s).extractLsb' lo n = v := by
  refine BitVec.eq_of_getLsbD_eq fun j hj => ?_
  simp [hj, h j hj]

/-- Settles O57: the codes are those of the tables, and each field's bits are read off `getLsbD_statusWord`. -/
theorem statusFields : Obligations.StatusFields := by
  refine ⟨by decide, ⟨rfl, rfl, rfl, rfl, rfl, Cause.code_lt⟩, fun s => ?_⟩
  refine ⟨extractLsb'_statusWord ?_, ?_, extractLsb'_statusWord ?_, ?_, extractLsb'_statusWord ?_,
    extractLsb'_statusWord ?_, extractLsb'_statusWord ?_, extractLsb'_statusWord ?_⟩
  case refine_2 =>
    rw [getLsbD_statusWord]
    simp [busy, bne, beq_eq_decide]
  case refine_4 =>
    rw [getLsbD_statusWord]
    simp [← Option.isSome_iff_ne_none]
  all_goals
    intro j hj
    grind [getLsbD_statusWord]

end Sys2Proof.Machine
end
section
/-! The byte buffers: a written sequence reads back, and a read inside the filled part of a buffer answers
(20_memory.md R52). -/

namespace Sys2Proof.Machine

open Sys2Proof.Safety

/-- A sequence written inside the buffer is what a read of its place answers. -/
theorem readBytes_writeBytes {buf : Buffer} (m : Memory) {i : Nat} {bs : List Byte} (hi : i + bs.length ≤ buf.size) :
    readBytes buf (m.writeBytes i bs) i bs.length = .ok bs := by
  refine readBytes_ok.mpr ⟨rfl, fun j hj => ⟨by omega, ?_⟩⟩
  rw [read_writeBytes, if_pos (by omega), Nat.add_sub_cancel_left]

theorem read_writeBytes_outside (m : Memory) {i j : Nat} {bs : List Byte} (hj : j < i ∨ i + bs.length ≤ j) :
    (m.writeBytes i bs).read j = m.read j := by
  rw [read_writeBytes, if_neg (by omega)]

/-- Settles O59: `read_writeBytes`, at the indices of the sequence and at every other. -/
theorem writtenBytesReadBack : Obligations.WrittenBytesReadBack := fun _ m _ _ hi =>
  ⟨readBytes_writeBytes m hi, fun _ hj => read_writeBytes_outside m hj⟩

theorem readBuf_ne_error {buf : Buffer} {m : Memory} {n i : Nat} (hm : Filled m n) (hn : n ≤ buf.size) (hi : i < n)
    (f : Fault) : readBuf buf m i ≠ .error f := by
  obtain ⟨b, hb⟩ := Option.isSome_iff_exists.mp (hm i hi)
  rw [readBuf_ok.mpr ⟨by omega, hb⟩]
  exact nofun

/-- A sequence read fails where one of its bytes fails to read. -/
theorem readBytes_error {buf : Buffer} {m : Memory} {i n : Nat} {f : Fault} (h : readBytes buf m i n = .error f) :
    ∃ j, j < n ∧ readBuf buf m (i + j) = .error f := by
  induction n generalizing i with
  | zero => cases h
  | succ n ih =>
    rw [readBytes] at h
    split at h
    · next hb =>
      cases h
      exact ⟨0, by omega, hb⟩
    · split at h
      · next ht =>
        cases h
        obtain ⟨j, hj, hb⟩ := ih ht
        exact ⟨j + 1, by omega, by rwa [Nat.add_comm j, ← Nat.add_assoc]⟩
      · cases h

theorem readBytes_ne_error {buf : Buffer} {m : Memory} {n : Nat} (hm : Filled m n) (hn : n ≤ buf.size) (f : Fault) :
    readBytes buf m 0 n ≠ .error f := by
  intro h
  obtain ⟨j, hj, hb⟩ := readBytes_error h
  exact readBuf_ne_error hm hn (by omega) f hb

end Sys2Proof.Machine
end
section
/-! Where a step can fault, and that the invariants of 10_state.md R40 and R41 shut it out (20_memory.md R52;
logs 6, 7 and 9). -/

namespace Sys2Proof.Safety

open Sys2Proof.Machine

/-! ### The shared operations -/

theorem inLegalState_ne_fault {s : State} {k : Out} {f : Fault} (hk : k ≠ .fault f) : inLegalState s k ≠ .fault f :=
  fun h => hk (inLegalState_fault.mp h).2

theorem onAnswer_ne_fault {e : MacState} {s : State} {k : Out} {f : Fault} (hk : s.st = e → k ≠ .fault f) :
    onAnswer e s k ≠ .fault f := by
  intro h
  obtain ⟨-, hst, hf⟩ := onAnswer_fault.mp h
  exact hk hst hf

theorem answerFn_ne_fault (a : FnAnswer) (s : State) (f : Fault) : answerFn a s ≠ .fault f :=
  inLegalState_ne_fault nofun

theorem deliverWire_ne_fault (bs : List Byte) (s : State) (f : Fault) : deliverWire bs s ≠ .fault f :=
  inLegalState_ne_fault nofun

theorem failAttempt_ne_fault (c : Cause) (s : State) (f : Fault) : failAttempt c s ≠ .fault f := by
  rw [failAttempt_eq]
  exact nofun

/-- Only the byte to send is read for a call. -/
theorem phyCall_error {s : State} {f : Fault} (h : phyCall s = .error f) :
    s.st = .tx ∧ readBuf .txf s.txf s.txIdx.toNat = .error f := by
  unfold phyCall at h
  split at h
  case h_2 hst =>
    split at h
    · cases h
    · next hb =>
      cases h
      exact ⟨hst, hb⟩
  all_goals cases h

/-- In a state with the invariants the byte to send is one of the frame's (10_state.md R41(b), R27). -/
theorem Inv.issueCall_ne_fault {s : State} (h : Inv s) (f : Fault) : issueCall s ≠ .fault f := by
  intro hf
  obtain ⟨hst, hb⟩ := phyCall_error (issueCall_fault.mp hf)
  exact readBuf_ne_error (h.txf_filled (by simp [hst])) le_rfl (h.tx_bound hst) f hb

/-! ### The instructions -/

theorem execReq_ne_fault {s : State} (h : Inv s) (c : Byte) (b : ReqBundle) (f : Fault) :
    execReq c b s ≠ .fault f := by
  refine inLegalState_ne_fault ?_
  split
  · exact nofun
  · unfold requestInIdle
    split
    · next hframe => exact (inv_acceptRequest h c hframe).issueCall_ne_fault f
    · exact nofun

theorem execWrOk_ne_fault {s : State} (h : Inv s) (ign : Byte) (f : Fault) : execWrOk ign s ≠ .fault f := by
  refine onAnswer_ne_fault fun hst => ?_
  have hidx := h.tx_bound hst
  dsimp only
  split
  · exact (h.start_rx hst (by bv_omega)).issueCall_ne_fault f
  · exact (h.with_txIdx (by simp [hst]) (by bv_omega)).issueCall_ne_fault f

/-- In `AWAIT_RSP` there is room for the next byte (10_state.md R41(c), R31). -/
theorem Inv.rxCnt_lt {s : State} (h : Inv s) (hst : s.st = .awaitRsp) : s.rxCnt.toNat < 264 := by
  have hshape := h.rx_shape hst
  have hrange := h.exp_range
  omega

theorem completeResponse_ne_fault (bytes : List Byte) (s : State) (f : Fault) :
    completeResponse bytes s ≠ .fault f := by
  unfold completeResponse
  split
  · rw [issueCall_of_none (phyCall_none rfl)]
    exact nofun
  · exact failAttempt_ne_fault _ _ f

/-- A response byte is stored inside `rxb`, and DECODE reads stored bytes only (10_state.md R32). -/
theorem Inv.receiveByte_ne_fault {s : State} (h : Inv s) (hst : s.st = .awaitRsp) (b : Byte) (f : Fault) :
    receiveByte b s ≠ .fault f := by
  have hl := h.rxCnt_lt hst
  rw [receiveByte, writeBuf_ok.mpr ⟨hl, rfl⟩]
  dsimp only
  split
  · split
    · next hread =>
      have hsize : (stored b s).rxCnt.toNat ≤ Buffer.size .rxb := by
        rw [stored_rxCnt_toNat hl]
        exact hl
      exact absurd hread (readBytes_ne_error (stored_filled h hst hl b) hsize _)
    · exact completeResponse_ne_fault _ _ f
  · next hshort =>
    have hstored : Inv (stored b s) := h.with_stored hst hl b h (by simp [hst]) fun _ => by simpa using hshort
    exact hstored.issueCall_ne_fault f

theorem execResetReq_ne_fault {s : State} (h : Inv s) (ign : Byte) (f : Fault) : execResetReq ign s ≠ .fault f := by
  refine inLegalState_ne_fault ?_
  split
  · next hbusy =>
    obtain ⟨c, hc⟩ := Option.isSome_iff_exists.mp (h.owner_iff_busy.trans hbusy)
    simp [abandon, hc]
  · exact nofun

theorem execRetryStep_ne_fault (s : State) (f : Fault) : execRetryStep s ≠ .fault f := by
  refine inLegalState_ne_fault ?_
  split
  · obtain ⟨t, ht⟩ := returnFromError_total s
    rw [ht]
    exact nofun
  · exact nofun

/-- In `RESOLVED` there are an owner and a result (10_state.md R40, R41(a)). -/
theorem execResolveStep_ne_fault {s : State} (h : Inv s) (f : Fault) : execResolveStep s ≠ .fault f := by
  refine inLegalState_ne_fault ?_
  split
  · next hst =>
    obtain ⟨c, hc⟩ := Option.isSome_iff_exists.mp (h.owner_isSome (by simp [hst]))
    obtain ⟨r, hr⟩ := Option.isSome_iff_exists.mp (h.res_iff_resolved.mpr hst)
    simp [reportResult, hc, hr]
  · exact nofun

theorem exec_ne_fault {s : State} (h : Inv s) (i : Instr) (f : Fault) : exec i s ≠ .fault f := by
  cases i with
  | req c b => exact execReq_ne_fault h c b f
  | txenOk _ => exact onAnswer_ne_fault fun hst => (h.start_tx hst).issueCall_ne_fault f
  | txenErr _ | wrErr _ | rxTimeout _ | rxErr _ => exact onAnswer_ne_fault fun _ => failAttempt_ne_fault _ s f
  | wrOk ign => exact execWrOk_ne_fault h ign f
  | rxByte b => exact onAnswer_ne_fault fun hst => h.receiveByte_ne_fault hst b f
  | resetReq ign => exact execResetReq_ne_fault h ign f
  | bfTest _ _ | bfSet _ _ => exact answerFn_ne_fault _ s f
  | xorFold _ | diagMap _ =>
    simp only [exec, execXorFold, execDiagMap]
    split
    · exact answerFn_ne_fault _ s f
    · exact nofun
  | encodeFn _ _ _ _ =>
    simp only [exec, execEncode]
    split <;> exact answerFn_ne_fault _ s f
  | decodeFn _ =>
    simp only [exec, execDecode]
    split
    · split <;> exact answerFn_ne_fault _ s f
    · exact nofun
  | retryStep => exact execRetryStep_ne_fault s f
  | resolveStep => exact execResolveStep_ne_fault h f
  | delimStxUnique | cmd48Frame _ _ _ _ => exact deliverWire_ne_fault _ s f

/-! ### The step -/

theorem rejected_ne_fault (e : Reject) (s : State) (f : Fault) : rejected e s ≠ .fault f := by
  cases e <;> exact inLegalState_ne_fault nofun

/-- Only an instruction can fault: a wait and an input that is no row of the table do not. -/
theorem step_fault {s : State} {f : Fault} (h : step s = .fault f) :
    ∃ w s1 i, fetch s = some (w, s1) ∧ decode w = .ok i ∧ exec i s1 = .fault f := by
  cases hf : fetch s with
  | none =>
    rw [step, hf] at h
    exact absurd h (inLegalState_ne_fault nofun)
  | some p =>
    obtain ⟨w, s1⟩ := p
    rw [step_of_fetch hf] at h
    cases hd : decode w with
    | ok i => exact ⟨w, s1, i, rfl, hd, runRaw_of_decode hd ▸ h⟩
    | error e =>
      rw [runRaw_of_reject hd] at h
      exact absurd h (rejected_ne_fault e s1 f)

/-- Settles O46: a fault is an instruction's, run in a state with the invariants, and there none faults. -/
theorem noStepFaults : Obligations.NoStepFaults := by
  intro s f h hstep
  obtain ⟨w, s1, i, hf, -, hx⟩ := step_fault hstep
  have h1 : Inv s1 := by
    rw [fetch_some hf]
    exact inv_with_inbox h _
  exact exec_ne_fault h1 i f hx

end Sys2Proof.Safety
end
section
/-! The decoder and the encoder (30_encoding.md R88 to R98, R68, R71): each is the other's inverse, on the words its
port fixes; and what a step does with the words that are no row, with an internal step, and with the wire rows. -/

namespace Sys2Proof

open Sys2Proof.Machine

/-! ### The words of an instruction decode to it -/

/-- A bundle or an operand buffer of exactly `len` bytes is read whole (10_state.md R43(b)). -/
theorem readData_of_length {len : Byte} {data : List Byte} (h : data.length = len.toNat) :
    readData len data = .ok data := by
  simp [readData, ← h]

theorem readSequence_of_length {buf : List Byte} (h : buf.length ≤ Config.rxMax) : readSequence buf = .ok buf :=
  if_pos h

/-- A `REQ` word is read with its bundle as presented. -/
theorem decode_encode_req {c : Byte} {b : ReqBundle} (h : (Instr.req c b).wf = true) :
    decode (encode (.req c b)) = .ok (.req c b) := by
  have hdata : readData b.len b.data = .ok b.data := readData_of_length (by simpa [Instr.wf, ReqBundle.wf] using h)
  simp [encode, decode, decodeEvent, decodeReq, hdata]

/-- The 17 bytes of a frame are told by `CMD48` and `BC48` at its bytes 6 and 7 (R68). -/
theorem decode_encode_cmd48Frame {dl ck : Byte} {address data : List Byte}
    (h : (Instr.cmd48Frame dl address data ck).wf = true) :
    decode (encode (.cmd48Frame dl address data ck)) = .ok (.cmd48Frame dl address data ck) := by
  simp only [Instr.wf, Bool.and_eq_true, beq_iff_eq] at h
  match address, data, h with
  | [_, _, _, _, _], [_, _, _, _, _, _, _, _], _ => simp [encode, wireFrameBytes, decode, decodeWire]

/-- Settles O1: by the row; the operands that have a length are read whole, since the instruction is well formed. -/
theorem decodeEncodeAgree : Obligations.DecodeEncodeAgree := by
  intro i h
  cases i with
  | req c b => exact decode_encode_req h
  | txenOk _ | txenErr _ | wrOk _ | wrErr _ | rxByte _ | rxTimeout _ | rxErr _ | resetReq _ =>
    simp [encode, plainEvent, decode, decodeEvent]
  | bfTest _ _ | bfSet _ _ | retryStep | resolveStep | delimStxUnique => rfl
  | xorFold s =>
    exact congrArg (Except.map Instr.xorFold) (readSequence_of_length (by simpa [Instr.wf] using h))
  | encodeFn a c l d =>
    exact congrArg (Except.map (Instr.encodeFn a c l)) (readData_of_length (by simpa [Instr.wf] using h))
  | decodeFn s =>
    exact congrArg (Except.map Instr.decodeFn) (readSequence_of_length (by simpa [Instr.wf] using h))
  | diagMap d => exact if_pos (by simpa [Instr.wf] using h)
  | cmd48Frame dl a d ck => exact decode_encode_cmd48Frame h

/-! ### What decodes has the words it was read from -/

theorem ofNat_of_toNat {n w : Nat} {x : BitVec w} (h : x.toNat = n) : BitVec.ofNat w n = x := by
  simp [← h]

/-- An event word is the word of its code and its operand (R88). -/
theorem evWord_of_code {evw : U16} {n : Nat} (h : (evCode evw).toNat = n) :
    evWord (BitVec.ofNat 8 n) (evOperand evw) = evw := by
  rw [ofNat_of_toNat h, evWord_of_parts]

theorem encode_of_decodeEvent {evw : U16} {b : ReqBundle} {i : Instr} (h : decodeEvent evw b = .ok i) :
    ∃ b', encode i = .ev evw b' := by
  unfold decodeEvent at h
  split at h
  case h_1 hcode =>
    unfold decodeReq at h
    split at h <;> cases h
    exact ⟨_, congrArg (Raw.ev · _) (evWord_of_code hcode)⟩
  case h_10 => cases h
  all_goals
    next hcode =>
      cases h
      exact ⟨_, congrArg (Raw.ev · _) (evWord_of_code hcode)⟩

theorem encode_of_decodeFunction {code : Byte} {ops : FnOperands} {i : Instr} (h : decodeFunction code ops = .ok i) :
    ∃ ops', encode i = .fn code ops' := by
  unfold decodeFunction at h
  split at h
  case h_3 hcode | h_4 hcode | h_5 hcode =>
    obtain ⟨_, -, rfl⟩ := except_map_eq_ok h
    exact ⟨_, congrArg (Raw.fn · _) (ofNat_of_toNat hcode)⟩
  case h_6 hcode =>
    split at h <;> cases h
    exact ⟨_, congrArg (Raw.fn · _) (ofNat_of_toNat hcode)⟩
  case h_7 => cases h
  all_goals
    next hcode =>
      cases h
      exact ⟨_, congrArg (Raw.fn · _) (ofNat_of_toNat hcode)⟩

theorem encode_of_decodeInternal {bits : BitVec 3} {i : Instr} (h : decodeInternal bits = .ok i) :
    encode i = .st bits := by
  unfold decodeInternal at h
  split at h
  case h_3 => cases h
  all_goals
    next hbits =>
      cases h
      exact congrArg Raw.st (ofNat_of_toNat hbits)

theorem encode_of_decodeWire {bytes : List Byte} {i : Instr} (h : decodeWire bytes = .ok i) :
    encode i = .wire bytes := by
  unfold decodeWire at h
  split at h
  · next hbytes =>
    cases h
    rw [hbytes, encode]
  · split at h
    · split at h
      · next hhead =>
        obtain ⟨rfl, rfl⟩ := hhead
        cases h
        rfl
      · cases h
    · cases h

/-- Settles O2: by the port, each of whose codes is the code of the instruction it decodes to. -/
theorem decodedWordsAreTheInstructionsOwn : Obligations.DecodedWordsAreTheInstructionsOwn := by
  intro w i h
  refine ⟨wf_of_decode h, ?_⟩
  cases w with
  | ev evw b => exact encode_of_decodeEvent h
  | fn code ops => exact encode_of_decodeFunction h
  | st bits => exact encode_of_decodeInternal h
  | wire bytes => exact encode_of_decodeWire h

/-- Settles O3: each word is one of the tables', and the decoder computes. -/
theorem tableWordsDecode : Obligations.TableWordsDecode :=
  ⟨rfl, rfl, rfl, rfl, rfl, rfl, rfl, rfl, rfl, rfl, rfl, rfl, rfl⟩

/-! ### The reserved codes (R96, R97) -/

theorem toNat_evCode (evw : U16) : (evCode evw).toNat = evw.toNat / 256 := by
  have := evw.isLt
  simp only [evCode, BitVec.extractLsb'_toNat, Nat.shiftRight_eq_div_pow]
  omega

theorem decodeEvent_reserved {evw : U16} (h : evw.toNat < 0x0100 ∨ 0x0A00 ≤ evw.toNat) (b : ReqBundle) :
    decodeEvent evw b = .error (.reservedEvent (evCode evw)) := by
  have hcode := toNat_evCode evw
  unfold decodeEvent
  split
  case h_10 => rfl
  all_goals omega

theorem decodeFunction_reserved {code : Byte} (h : code.toNat < 0x10 ∨ 0x16 ≤ code.toNat) (ops : FnOperands) :
    decodeFunction code ops = .error (.reservedFunction code) := by
  unfold decodeFunction
  split
  case h_7 => rfl
  all_goals omega

end Sys2Proof

namespace Sys2Proof.Machine

/-- A scheduled input that is no row of the table leaves the schedule. -/
theorem step_rejected {s : State} {x : Input} {rest : List Input} {e : Reject} (h : s.inbox = x :: rest)
    (hd : decode (presentedWords s.st x) = .error e) : step s = rejected e { s with inbox := rest } :=
  (step_of_fetch (fetch_scheduled h)).trans (runRaw_of_reject hd)

/-- Settles O7: the word decodes to no row, and such an event is dropped. -/
theorem reservedEventsAreDropped : Obligations.ReservedEventsAreDropped := fun _ _ b _ hs h hcode =>
  (step_rejected h (decodeEvent_reserved hcode b)).trans (inLegalState_of_legal hs _)

/-- Settles O8: the code decodes to no row, and such a call is refused. -/
theorem reservedFunctionsAreRefused : Obligations.ReservedFunctionsAreRefused := fun _ _ ops _ hs h hcode =>
  (step_rejected h (decodeFunction_reserved hcode ops)).trans (inLegalState_of_legal hs _)

/-! ### Function-port calls (R90) -/

/-- A call that the port can carry does one thing: it answers. -/
theorem exec_eq_answerFn {i : Instr} (hi : ∃ code ops, encode i = .fn code ops) (hwf : i.wf = true) (s : State) :
    ∃ a, exec i s = answerFn a s := by
  cases i with
  | bfTest _ _ | bfSet _ _ => exact ⟨_, rfl⟩
  | xorFold _ => exact ⟨_, if_pos (by simpa [Instr.wf] using hwf)⟩
  | encodeFn _ _ _ _ =>
    simp only [exec, execEncode]
    split <;> exact ⟨_, rfl⟩
  | decodeFn _ =>
    rw [exec, execDecode, if_pos (by simpa [Instr.wf] using hwf)]
    split <;> exact ⟨_, rfl⟩
  | diagMap _ => exact ⟨_, if_pos (by simpa [Instr.wf] using hwf)⟩
  | _ =>
    obtain ⟨_, _, hw⟩ := hi
    cases hw

/-- Settles O52: the scheduled call runs, and all it does is to answer. -/
theorem functionCallsLeaveTheBlock : Obligations.FunctionCallsLeaveTheBlock := by
  intro s code ops i rest hs h hd
  obtain ⟨ops', hw⟩ := encode_of_decodeFunction hd
  obtain ⟨a, ha⟩ := exec_eq_answerFn ⟨code, ops', hw⟩ (wf_of_decode hd) { s with inbox := rest }
  have hstep : step s = .next { s with inbox := rest, fnOut := s.fnOut ++ [a] } :=
    (step_scheduled h hd).trans (ha.trans (inLegalState_of_legal hs _))
  exact ⟨_, a, hstep, rfl, rfl, rfl⟩

/-! ### Internal steps and wire rows -/

/-- Settles O37: each of the two meanings tests `st` first. -/
theorem internalStepsAreSelectedByState : Obligations.InternalStepsAreSelectedByState := fun _ hs =>
  ⟨fun h => (inLegalState_of_legal hs _).trans (if_neg h), fun h => (inLegalState_of_legal hs _).trans (if_neg h)⟩

/-- Settles O38: both rows deliver their bytes. -/
theorem wireBytesArriveInOrder : Obligations.WireBytesArriveInOrder := fun _ _ _ _ _ hs =>
  ⟨deliverWire_next.mpr ⟨hs, rfl⟩, deliverWire_next.mpr ⟨hs, rfl⟩⟩

end Sys2Proof.Machine
end
section
/-! The result word (30_encoding.md R92). -/

namespace Sys2Proof.Machine

theorem getLsbD_zero_eq_decide (b : BitVec 1) : b.getLsbD 0 = decide (b = 1#1) := by
  decide +revert

/-- Bit `j` of a result word, from the field it lies in. -/
theorem getLsbD_resultWord (r : TransactionResult) (j : Nat) :
    (resultWord r).getLsbD j =
      if j < 2 then r.code.getLsbD j
      else if j = 2 then decide (r.reasonBit = 1#1)
      else if j < 6 then r.causeBits.getLsbD (j - 3)
      else if j = 6 then decide (r.diagValid = 1#1)
      else if j = 7 then false
      else r.retryBits.getLsbD (j - 8) := by
  simp only [resultWord, BitVec.getLsbD_append, ← getLsbD_zero_eq_decide]
  grind

/-- Every field of a result word, from bit 0 up. -/
theorem resultWord_fields (r : TransactionResult) :
    (resultWord r).extractLsb' 0 2 = r.code ∧ (resultWord r).getLsbD 2 = decide (r.reasonBit = 1#1) ∧
      (resultWord r).extractLsb' 3 3 = r.causeBits ∧ (resultWord r).getLsbD 6 = decide (r.diagValid = 1#1) ∧
      (resultWord r).getLsbD 7 = false ∧ (resultWord r).extractLsb' 8 8 = r.retryBits := by
  refine ⟨BitVec.eq_of_getLsbD_eq ?_, getLsbD_resultWord r 2, BitVec.eq_of_getLsbD_eq ?_, getLsbD_resultWord r 6,
    getLsbD_resultWord r 7, BitVec.eq_of_getLsbD_eq ?_⟩
  all_goals
    intro j hj
    grind [getLsbD_resultWord]

theorem Reason.code_eq_one (r : Reason) : decide (r.code = 1#1) = decide (r = .reset) := by
  cases r <;> rfl

/-- `diag_valid` is 1 exactly where there is a diagnostics record. -/
theorem TransactionResult.diagValid_eq_one (r : TransactionResult) :
    decide (r.diagValid = 1#1) = r.diagnostics?.isSome := by
  cases r <;> rfl

/-- Settles O58: the fields of `resultWord_fields`, at each result. -/
theorem resultWordFields : Obligations.ResultWordFields := by
  refine ⟨fun df dg n c => resultWord_fields (.success df dg n c), fun r n c => ?_, rfl, rfl, fun r => ?_⟩
  · rw [← r.code_eq_one]
    exact resultWord_fields (.commFailure r n c)
  · obtain ⟨-, -, -, hdiag, -⟩ := resultWord_fields r
    exact hdiag.trans r.diagValid_eq_one

end Sys2Proof.Machine
end
section
/-! The BitField unit (40_bitfield.md): what BF_TEST reads of a byte, the laws of the two functions (R102), and their
calls on the function port (R100, R101). -/

namespace Sys2Proof.Machine

/-! ### BF_TEST -/

theorem bfTest_eq_true_iff (b m : Byte) : bfTest b m = true ↔ b &&& m ≠ 0#8 := bne_iff_ne

theorem bfTest_eq_decide (b m : Byte) : bfTest b m = decide (b &&& m ≠ 0#8) :=
  Bool.eq_iff_iff.mpr ((bfTest_eq_true_iff b m).trans decide_eq_true_iff.symm)

/-- R102 (c). -/
theorem bfTest_or_mask (b m1 m2 : Byte) : bfTest b (m1 ||| m2) = (bfTest b m1 || bfTest b m2) := by
  rw [Bool.eq_iff_iff, Bool.or_eq_true]
  simp only [bfTest_eq_true_iff]
  rw [BitVec.and_or_distrib_left, ne_eq, BitVec.or_eq_zero_iff, not_and_or]

theorem twoPow_ne_zero {w k : Nat} (hk : k < w) : BitVec.twoPow w k ≠ 0#w := fun h => by
  have hbit : (BitVec.twoPow w k).getLsbD k = true := by simp [hk]
  rw [h, BitVec.getLsbD_zero] at hbit
  exact Bool.false_ne_true hbit

/-- R102 (d): the masked byte is the mask where the bit is set, and 0 where it is not. -/
theorem bfTest_single_bit (b : Byte) {k : Nat} (hk : k < 8) : bfTest b (1#8 <<< k) = b.getLsbD k := by
  rw [Bool.eq_iff_iff, bfTest_eq_true_iff, ← BitVec.twoPow_eq, BitVec.and_twoPow]
  by_cases hb : b.getLsbD k = true
  · simp only [hb, if_true, twoPow_ne_zero hk, ne_eq, not_false_eq_true]
  · simp [hb]

/-! ### BF_SET -/

/-- R102 (a): the mask's own bits are in the result, so a mask with any bit tests as set. -/
theorem bfTest_bfSet (b : Byte) {m : Byte} (hm : m ≠ 0#8) : bfTest (bfSet b m) m = true := by
  have hmask : bfSet b m &&& m = m &&& b ||| m := by
    rw [bfSet, BitVec.and_comm, BitVec.and_or_distrib_left, BitVec.and_self]
  rw [bfTest_eq_true_iff, hmask, ne_eq, BitVec.or_eq_zero_iff]
  exact fun ⟨_, h⟩ => hm h

/-- R102 (b). -/
theorem bfSet_bfSet (b m : Byte) : bfSet (bfSet b m) m = bfSet b m := by
  rw [bfSet, bfSet, BitVec.or_assoc, BitVec.or_self]

/-- Settles O11: the four laws, each a lemma above. -/
theorem bitFieldLaws : Obligations.BitFieldLaws :=
  ⟨fun b _ hm => bfTest_bfSet b hm, bfSet_bfSet, bfTest_or_mask, fun b _ hk => bfTest_single_bit b hk⟩

/-! ### The calls -/

/-- Settles O10: both calls only answer, and what they answer is the value of the function. -/
theorem bitFieldCallsAnswer : Obligations.BitFieldCallsAnswer := by
  refine ⟨fun _ => ⟨rfl, rfl⟩, fun s b m hs => ⟨?_, answerFn_next.mpr ⟨hs, rfl⟩, rfl, rfl⟩⟩
  rw [← bfTest_eq_decide]
  exact answerFn_next.mpr ⟨hs, rfl⟩

end Sys2Proof.Machine
end
section
/-! XOR_FOLD (41_frame_codec.md R104, R105): the fold of a sequence is its first byte XORed with the fold of the rest,
and its laws follow from that. -/

namespace Sys2Proof.Machine

/-! ### The fold of each form of a sequence -/

@[simp] theorem xorFold_nil : xorFold [] = 0#8 := rfl

@[simp] theorem xorFold_cons (b : Byte) (s : List Byte) : xorFold (b :: s) = b ^^^ xorFold s := by
  rw [xorFold, List.foldl_cons, BitVec.xor_comm]
  exact List.foldl_assoc

/-- R105 (b). -/
theorem xorFold_append (s t : List Byte) : xorFold (s ++ t) = xorFold s ^^^ xorFold t := by
  induction s with
  | nil => simp
  | cons b s ih => simp [ih, BitVec.xor_assoc]

theorem xorFold_concat (s : List Byte) (b : Byte) : xorFold (s ++ [b]) = xorFold s ^^^ b := by
  simp [xorFold_append]

theorem xorFold_perm {s t : List Byte} (h : s.Perm t) : xorFold s = xorFold t := h.foldl_op_eq

/-- R105 (a): the checksum of a sequence makes it fold to 0x00. -/
theorem xorFold_concat_xorFold (s : List Byte) : xorFold (s ++ [xorFold s]) = 0#8 := by
  rw [xorFold_concat, BitVec.xor_self]

/-- Whatever is XORed into one byte is XORed into the fold; R105 (c) is the case of a single bit. -/
theorem xorFold_set_xor {s : List Byte} {i : Nat} (hi : i < s.length) (m : Byte) :
    xorFold (s.set i (s.getD i 0#8 ^^^ m)) = xorFold s ^^^ m := by
  induction s generalizing i with
  | nil => simp at hi
  | cons b s ih =>
    cases i with
    | zero => simp [BitVec.xor_assoc, BitVec.xor_comm m]
    | succ i =>
      have hrest := ih (Nat.lt_of_succ_lt_succ hi)
      simp only [List.getD_cons_succ, List.set_cons_succ, xorFold_cons, hrest, BitVec.xor_assoc]

/-- R105 (d). -/
theorem xorFold_replicate_zero (n : Nat) : xorFold (List.replicate n 0#8) = 0#8 := by
  induction n with
  | zero => rfl
  | succ n ih => simp [List.replicate_succ, ih]

/-- Settles O13: the four laws, each a lemma above. -/
theorem xorFoldLaws : Obligations.XorFoldLaws :=
  ⟨xorFold_concat_xorFold, xorFold_append, fun _ _ _ hi _ => xorFold_set_xor hi _, fun s n => by
    rw [xorFold_append, xorFold_replicate_zero, BitVec.xor_zero]⟩

/-! ### The call -/

theorem decode_xorFold {ops : FnOperands} (h : ops.buf.length ≤ Config.rxMax) :
    decode (.fn 0x12#8 ops) = .ok (.xorFold ops.buf) :=
  congrArg (Except.map Instr.xorFold) (readSequence_of_length h)

theorem exec_xorFold {s : State} {bytes : List Byte} (hs : s.st.unused = false) (h : bytes.length ≤ Config.rxMax) :
    exec (.xorFold bytes) s = .next { s with fnOut := s.fnOut ++ [.byte (xorFold bytes)] } :=
  (if_pos h).trans (answerFn_next.mpr ⟨hs, rfl⟩)

/-- Settles O12: by the laws of the fold, and the call answers it. -/
theorem xorFoldFoldsAndAnswers : Obligations.XorFoldFoldsAndAnswers :=
  ⟨fun _ h => decode_xorFold h, rfl, xorFold_concat, fun _ _ => xorFold_perm, rfl, fun _ _ hs h =>
    ⟨exec_xorFold hs h, rfl⟩⟩

end Sys2Proof.Machine
end
section
/-! The Address and its five wire bytes, SER_ADDR and PARSE_ADDR, as numbers (41_frame_codec.md R110, R111). -/

namespace Sys2Proof.Machine

/-- The number of a word is that of its upper part, shifted, plus that of its lower part. -/
theorem toNat_append_eq_add {m n : Nat} (x : BitVec m) (y : BitVec n) :
    (x ++ y).toNat = x.toNat * 2 ^ n + y.toNat := by
  rw [BitVec.toNat_append, ← Nat.shiftLeft_add_eq_or_of_lt y.isLt, Nat.shiftLeft_eq]

theorem toNat_extractLsb' {w : Nat} (x : BitVec w) (lo n : Nat) :
    (x.extractLsb' lo n).toNat = x.toNat / 2 ^ lo % 2 ^ n := by
  rw [BitVec.extractLsb'_toNat, Nat.shiftRight_eq_div_pow]

/-! ### SER_ADDR -/

/-- The OR of R110 joins three fields that do not overlap. -/
theorem serAddr0_eq_append (a : Address) :
    serAddr0 a = masterBit a.masterAddress ++ BitVec.ofBool a.burstMode ++ a.deviceTypeCode.extractLsb' 8 6 := by
  rw [serAddr0]
  generalize masterBit a.masterAddress = x
  generalize BitVec.ofBool a.burstMode = y
  generalize a.deviceTypeCode.extractLsb' 8 6 = z
  ext i hi
  simp only [BitVec.getElem_or, BitVec.getElem_shiftLeft, BitVec.getElem_setWidth]
  grind

theorem toNat_masterBit (m : MasterAddress) : (masterBit m).toNat = if m = .primary then 1 else 0 := by
  cases m <;> rfl

theorem toNat_serAddr0 (a : Address) :
    (serAddr0 a).toNat = (if a.masterAddress = .primary then 128 else 0) + (if a.burstMode then 64 else 0) +
      a.deviceTypeCode.toNat / 256 % 64 := by
  rw [serAddr0_eq_append, toNat_append_eq_add, toNat_append_eq_add, toNat_extractLsb', toNat_masterBit]
  cases a.burstMode <;> split <;> simp

/-- Settles O15: A0 is `toNat_serAddr0`, the others are slices. -/
theorem addressSerializesToItsFields : Obligations.AddressSerializesToItsFields := by
  intro a
  have hid := a.deviceID.isLt
  simp only [serAddr, List.map_cons, List.map_nil, toNat_serAddr0, toNat_extractLsb', List.cons.injEq, and_true,
    true_and]
  omega

/-! ### PARSE_ADDR -/

theorem parseAddr_masterAddress_eq_primary (a0 a1 a2 a3 a4 : Byte) :
    (parseAddr a0 a1 a2 a3 a4).masterAddress = .primary ↔ 128 ≤ a0.toNat := by
  have := a0.isLt
  have hbit : a0.extractLsb' 7 1 = 1#1 ↔ 128 ≤ a0.toNat := by
    rw [← BitVec.toNat_inj, toNat_extractLsb', BitVec.toNat_ofNat]
    omega
  simp [parseAddr, masterOfBit, hbit]

theorem parseAddr_burstMode_eq_true (a0 a1 a2 a3 a4 : Byte) :
    (parseAddr a0 a1 a2 a3 a4).burstMode = true ↔ a0.toNat / 64 % 2 = 1 := by
  rw [parseAddr, beq_iff_eq, ← BitVec.toNat_inj, toNat_extractLsb', BitVec.toNat_ofNat]
  omega

theorem parseAddr_deviceTypeCode_toNat (a0 a1 a2 a3 a4 : Byte) :
    (parseAddr a0 a1 a2 a3 a4).deviceTypeCode.toNat = a0.toNat % 64 * 256 + a1.toNat := by
  have := a1.isLt
  rw [parseAddr, BitVec.toNat_setWidth, toNat_append_eq_add, toNat_extractLsb']
  omega

theorem parseAddr_deviceID_toNat (a0 a1 a2 a3 a4 : Byte) :
    (parseAddr a0 a1 a2 a3 a4).deviceID.toNat = a2.toNat * 65536 + a3.toNat * 256 + a4.toNat := by
  rw [parseAddr, toNat_append_eq_add, toNat_append_eq_add]
  omega

/-- Both directions have the same numbers, so the bytes are the same. -/
theorem serAddr_parseAddr (a0 a1 a2 a3 a4 : Byte) : serAddr (parseAddr a0 a1 a2 a3 a4) = [a0, a1, a2, a3, a4] := by
  have h0 := a0.isLt
  have h1 := a1.isLt
  have h2 := a2.isLt
  have h3 := a3.isLt
  have h4 := a4.isLt
  refine List.map_injective_iff.mpr (fun _ _ => BitVec.eq_of_toNat_eq) ?_
  rw [addressSerializesToItsFields]
  simp only [parseAddr_masterAddress_eq_primary, parseAddr_burstMode_eq_true, parseAddr_deviceTypeCode_toNat,
    parseAddr_deviceID_toNat, List.map_cons, List.map_nil, List.cons.injEq, and_true]
  refine ⟨?_, ?_, ?_, ?_, ?_⟩
  · split <;> split <;> omega
  all_goals omega

/-- Two addresses are the same where their numbers are. -/
theorem address_eq_of_numbers {a b : Address} (hmaster : a.masterAddress = .primary ↔ b.masterAddress = .primary)
    (hburst : a.burstMode = true ↔ b.burstMode = true) (htype : a.deviceTypeCode.toNat = b.deviceTypeCode.toNat)
    (hid : a.deviceID.toNat = b.deviceID.toNat) : a = b := by
  obtain ⟨m, _, _, _⟩ := a
  obtain ⟨n, _, _, _⟩ := b
  have hm : m = n := by cases m <;> cases n <;> simp at hmaster ⊢
  exact congr (congr (congr (congrArg Address.mk hm) (Bool.eq_iff_iff.mpr hburst)) (BitVec.eq_of_toNat_eq htype))
    (BitVec.eq_of_toNat_eq hid)

/-- The mask of R116 keeps the 14 bits that have a place on the wire. -/
theorem toNat_and_typeMask (t : U16) : (t &&& 0x3FFF#16).toNat = t.toNat % 0x4000 :=
  (BitVec.toNat_and ..).trans (Nat.and_two_pow_sub_one_eq_mod _ 14)

/-- The other direction of the inverse: bits 15:14 of `deviceTypeCode` are dropped on the wire. -/
theorem parseAddr_serAddr {a : Address} {a0 a1 a2 a3 a4 : Byte} (h : serAddr a = [a0, a1, a2, a3, a4]) :
    parseAddr a0 a1 a2 a3 a4 = { a with deviceTypeCode := a.deviceTypeCode &&& 0x3FFF#16 } := by
  have hbytes := addressSerializesToItsFields a
  simp only [h, List.map_cons, List.map_nil, List.cons.injEq, and_true] at hbytes
  obtain ⟨h0, h1, h2, h3, h4⟩ := hbytes
  apply address_eq_of_numbers
  · rw [parseAddr_masterAddress_eq_primary, h0]
    grind
  · rw [parseAddr_burstMode_eq_true, h0]
    grind
  · rw [parseAddr_deviceTypeCode_toNat, h0, h1, toNat_and_typeMask]
    grind
  · rw [parseAddr_deviceID_toNat, h2, h3, h4]
    grind

/-- A valid Address has no bits to drop (R107). -/
theorem and_typeMask_of_validAddress {a : Address} (h : validAddress a = true) :
    a.deviceTypeCode &&& 0x3FFF#16 = a.deviceTypeCode := by
  apply BitVec.eq_of_toNat_eq
  rw [toNat_and_typeMask, Nat.mod_eq_of_lt (of_decide_eq_true h)]

/-- Settles O16: each field is a lemma above, and so is the inverse. -/
theorem parsedAddressSerializesBack : Obligations.ParsedAddressSerializesBack := fun a0 a1 a2 a3 a4 =>
  ⟨parseAddr_masterAddress_eq_primary .., parseAddr_burstMode_eq_true .., parseAddr_deviceTypeCode_toNat ..,
    parseAddr_deviceID_toNat .., serAddr_parseAddr a0 a1 a2 a3 a4⟩

end Sys2Proof.Machine
end
section
/-! The Frame Codec: what ENCODE returns (41_frame_codec.md R109), DECODE's verdict (R112), and that DECODE undoes
ENCODE and detects every single-bit flip (R115 to R118). -/

namespace Sys2Proof.Machine

/-- Command 48 with its byte count is the one recognized pair (R108). -/
theorem definedBC_eq_some {cmd n : Byte} :
    definedBC cmd = some n ↔ cmd = Config.cmd48 ∧ n = Config.bc48 := by
  unfold definedBC
  split
  · next h => simp [h, eq_comm]
  · next h => simp [h]

/-! ### ENCODE -/

theorem encodeFrame_ok {a : Address} {cmd len : Byte} {data f : List Byte} :
    encodeFrame a cmd len data = .ok f ↔
      (cmd = Config.cmd48 ∧ len = Config.bc48) ∧ data.length = 8 ∧
        f = frameBody a cmd len data ++ [xorFold (frameBody a cmd len data)] := by
  simp only [encodeFrame, definedBC_eq_some]
  split
  · next h => simp [h, eq_comm]
  · next h =>
    simp only [reduceCtorEq, false_iff]
    exact fun ⟨hbc, hdata, _⟩ => h ⟨hbc, hdata⟩

theorem encodeFrame_of_length (a : Address) {data : List Byte} (h : data.length = 8) :
    encodeFrame a Config.cmd48 Config.bc48 data =
      .ok (frameBody a Config.cmd48 Config.bc48 data ++ [xorFold (frameBody a Config.cmd48 Config.bc48 data)]) :=
  encodeFrame_ok.mpr ⟨⟨rfl, rfl⟩, h, rfl⟩

theorem encodeFrame_error {a : Address} {cmd len : Byte} (data : List Byte)
    (h : cmd ≠ Config.cmd48 ∨ len ≠ Config.bc48) : encodeFrame a cmd len data = .error .invalidPayloadLength := by
  refine if_neg fun ⟨hbc, _⟩ => ?_
  obtain ⟨hcmd, hlen⟩ := definedBC_eq_some.mp hbc
  exact h.elim (absurd hcmd) (absurd hlen)

/-- Settles O19: the checksum is the fold of the bytes before it. -/
theorem encodedFrameFoldsToZero : Obligations.EncodedFrameFoldsToZero := by
  intro a cmd len data f h
  obtain ⟨-, -, rfl⟩ := encodeFrame_ok.mp h
  exact xorFold_concat_xorFold _

/-- Settles O39: the constant has the fields, and it is the first byte of a frame's body. -/
theorem delimiterFields : Obligations.DelimiterFields := by
  refine ⟨rfl, rfl, rfl, rfl, fun a cmd len data f h => ?_⟩
  obtain ⟨-, -, rfl⟩ := encodeFrame_ok.mp h
  rfl

theorem readData_of_le {len : Byte} {data : List Byte} (h : len.toNat ≤ data.length) :
    readData len data = .ok (data.take len.toNat) :=
  if_neg (Nat.not_lt.mpr h)

theorem exec_encodeFn_ok {s : State} {a : Address} {cmd len : Byte} {data f : List Byte} (hs : s.st.unused = false)
    (h : encodeFrame a cmd len data = .ok f) :
    exec (.encodeFn a cmd len data) s = .next { s with fnOut := s.fnOut ++ [.frame f] } := by
  rw [exec, execEncode, h]
  exact answerFn_next.mpr ⟨hs, rfl⟩

theorem exec_encodeFn_error {s : State} {a : Address} {cmd len : Byte} {data : List Byte} {e : EncodeError}
    (hs : s.st.unused = false) (h : encodeFrame a cmd len data = .error e) :
    exec (.encodeFn a cmd len data) s = .next { s with fnOut := s.fnOut ++ [.noFrame e] } := by
  rw [exec, execEncode, h]
  exact answerFn_next.mpr ⟨hs, rfl⟩

/-- Settles O14: the body is the first 16 bytes of the frame; without the recognized pair there is no frame. -/
theorem encodeAnswers : Obligations.EncodeAnswers := by
  refine ⟨fun ops h => congrArg (Except.map (Instr.encodeFn ops.addr ops.cmd ops.len)) (readData_of_le h),
    fun s a cmd len data hs hdata => ⟨?_, fun h => ⟨exec_encodeFn_error hs (encodeFrame_error data h), rfl⟩⟩⟩
  rintro rfl rfl
  have hframe := encodeFrame_of_length a hdata
  have hbody : (frameBody a Config.cmd48 Config.bc48 data).length = 16 := by
    rw [length_frameBody, hdata]
    rfl
  refine ⟨_, exec_encodeFn_ok hs hframe, length_of_encodeFrame hframe, ?_, ?_, rfl⟩
  · rw [List.take_left' hbody, frameBody]
  · rw [List.drop_left' hbody, List.take_left' hbody]

/-! ### DECODE -/

/-- The structure that DECODE asks for: the bytes 6 and 7 of Command 48, and the length they announce (R112). -/
def HasFrameStructure (s : List Byte) : Prop :=
  s.length = 17 ∧ s.getD 6 0#8 = Config.cmd48 ∧ s.getD 7 0#8 = Config.bc48

theorem decodeFrame_of_not_structure {s : List Byte} (h : ¬HasFrameStructure s) :
    decodeFrame s = .error .malformedFrame := by
  unfold decodeFrame
  by_cases hbc : definedBC (s.getD 6 0#8) = some (s.getD 7 0#8)
  · obtain ⟨hcmd, hlen⟩ := definedBC_eq_some.mp hbc
    have hlength : s.length ≠ 9 + (s.getD 7 0#8).toNat := fun hl => h ⟨by rw [hl, hlen]; rfl, hcmd, hlen⟩
    rw [if_pos hlength]
    simp only [ite_self]
  · rw [if_pos hbc]
    simp only [ite_self]

/-- The last byte is the fold of the others exactly where all of them fold to 0x00. -/
theorem checksum_iff_xorFold_eq_zero {s : List Byte} (hlen : s.length = 17) :
    xorFold (s.take 16) = s.getD 16 0#8 ↔ xorFold s = 0#8 := by
  have hsplit : s = s.take 16 ++ [s.getD 16 0#8] := by
    rw [List.getD_eq_getElem _ _ (by omega), List.take_concat_get', List.take_of_length_le (by omega)]
  rw [← BitVec.xor_eq_zero_iff, ← xorFold_concat, ← hsplit]

theorem decodeFrame_of_structure {s : List Byte} (h : HasFrameStructure s) :
    decodeFrame s = if xorFold s = 0#8 then .ok (decodedFrame s) else .error .checksumMismatch := by
  obtain ⟨hlen, hcmd, hbc⟩ := h
  unfold decodeFrame
  simp only [← checksum_iff_xorFold_eq_zero hlen, hlen, hcmd, hbc]
  simp [definedBC]

theorem structure_of_decodeFrame_ok {s : List Byte} {df : DecodedFrame} (h : decodeFrame s = .ok df) :
    HasFrameStructure s := by
  by_contra hs
  rw [decodeFrame_of_not_structure hs] at h
  cases h

/-- Settles O22: what decodes has the structure, and with it the length. -/
theorem onlySeventeenBytesDecode : Obligations.OnlySeventeenBytesDecode := fun _ _ h =>
  (structure_of_decodeFrame_ok h).1

theorem decode_decodeFn {ops : FnOperands} (h : ops.buf.length ≤ Config.rxMax) :
    decode (.fn 0x14#8 ops) = .ok (.decodeFn ops.buf) :=
  congrArg (Except.map Instr.decodeFn) (readSequence_of_length h)

theorem exec_decodeFn_ok {s : State} {bytes : List Byte} {df : DecodedFrame} (hs : s.st.unused = false)
    (hlen : bytes.length ≤ Config.rxMax) (h : decodeFrame bytes = .ok df) :
    exec (.decodeFn bytes) s = .next { s with fnOut := s.fnOut ++ [.decoded df] } := by
  rw [exec, execDecode, if_pos hlen, h]
  exact answerFn_next.mpr ⟨hs, rfl⟩

theorem exec_decodeFn_error {s : State} {bytes : List Byte} {e : FrameError} (hs : s.st.unused = false)
    (hlen : bytes.length ≤ Config.rxMax) (h : decodeFrame bytes = .error e) :
    exec (.decodeFn bytes) s = .next { s with fnOut := s.fnOut ++ [.notDecoded e] } := by
  rw [exec, execDecode, if_pos hlen, h]
  exact answerFn_next.mpr ⟨hs, rfl⟩

theorem status_notDecoded (e : FrameError) :
    (FnAnswer.notDecoded e).status = if e = .malformedFrame then 1#8 else 2#8 := by
  cases e <;> rfl

/-- Settles O17: structure decides first, then the checksum; the call answers the verdict. -/
theorem decodeVerdictAndAnswer : Obligations.DecodeVerdictAndAnswer := by
  refine ⟨fun _ h => decode_decodeFn h, fun s => ⟨decodeFrame_of_not_structure, fun hlen hcmd hbc => ?_,
    fun st hs hlen => ⟨fun _ h => ⟨exec_decodeFn_ok hs hlen h, rfl⟩,
      fun e h => ⟨exec_decodeFn_error hs hlen h, status_notDecoded e⟩⟩⟩⟩
  rw [decodeFrame_of_structure ⟨hlen, hcmd, hbc⟩, ne_eq, checksum_iff_xorFold_eq_zero hlen]
  exact ⟨fun hsum => if_neg hsum, fun hsum => ⟨_, if_pos hsum⟩⟩

/-- Settles O18: the structure and the checksum are right, and the record is read off the bytes. -/
theorem decodedFrameRecord : Obligations.DecodedFrameRecord := by
  intro dl a0 a1 a2 a3 a4 d0 d1 d2 d3 d4 d5 d6 d7 body
  have hstructure : HasFrameStructure (body ++ [xorFold body]) := ⟨rfl, rfl, rfl⟩
  refine ⟨_, (decodeFrame_of_structure hstructure).trans (if_pos (xorFold_concat_xorFold body)), ?_⟩
  exact ⟨rfl, rfl, rfl, rfl, rfl, rfl⟩

/-! ### DECODE of ENCODE -/

theorem structure_of_encodeFrame {a : Address} {cmd len : Byte} {data f : List Byte}
    (h : encodeFrame a cmd len data = .ok f) : HasFrameStructure f := by
  refine ⟨length_of_encodeFrame h, ?_⟩
  obtain ⟨⟨rfl, rfl⟩, -, rfl⟩ := encodeFrame_ok.mp h
  exact ⟨rfl, rfl⟩

theorem decodeFrame_of_encodeFrame {a : Address} {cmd len : Byte} {data f : List Byte}
    (h : encodeFrame a cmd len data = .ok f) : decodeFrame f = .ok (decodedFrame f) :=
  (decodeFrame_of_structure (structure_of_encodeFrame h)).trans (if_pos (encodedFrameFoldsToZero _ _ _ _ _ h))

/-- Settles O20: the frame has the structure and folds to 0x00, so it decodes, and the record holds its bytes. -/
theorem codecRoundTrip : Obligations.CodecRoundTrip := by
  intro a d hd
  have hframe := encodeFrame_of_length a hd
  refine ⟨_, _, hframe, decodeFrame_of_encodeFrame hframe, ?_, rfl, rfl, rfl, parseAddr_serAddr rfl, fun hvalid => ?_⟩
  · exact List.take_left' hd
  · refine (parseAddr_serAddr (a := a) rfl).trans ?_
    rw [and_typeMask_of_validAddress hvalid]

/-! ### A flipped bit -/

theorem single_bit_ne_zero {k : Nat} (hk : k < 8) : 1#8 <<< k ≠ 0#8 := by
  rw [← BitVec.twoPow_eq]
  exact twoPow_ne_zero hk

theorem xor_ne_self {x m : Byte} (hm : m ≠ 0#8) : x ^^^ m ≠ x := fun h =>
  hm ((BitVec.xor_right_inj x).mp (h.trans BitVec.xor_zero.symm))

/-- A change of a byte that DECODE compares with a constant breaks the structure. -/
theorem not_structure_of_set {f : List Byte} (h : HasFrameStructure f) {i : Nat} (hi : i = 6 ∨ i = 7) {b : Byte}
    (hb : b ≠ f.getD i 0#8) : ¬HasFrameStructure (f.set i b) := by
  obtain ⟨hlen, hcmd, hbc⟩ := h
  rintro ⟨-, hcmd', hbc'⟩
  obtain rfl | rfl := hi
  · exact hb ((by simp [hlen] : b = (f.set 6 b).getD 6 0#8).trans (hcmd'.trans hcmd.symm))
  · exact hb ((by simp [hlen] : b = (f.set 7 b).getD 7 0#8).trans (hbc'.trans hbc.symm))

/-- A change of any other byte keeps it. -/
theorem structure_set {f : List Byte} (h : HasFrameStructure f) {i : Nat} (hi : ¬(i = 6 ∨ i = 7)) (b : Byte) :
    HasFrameStructure (f.set i b) := by
  obtain ⟨hlen, hcmd, hbc⟩ := h
  rw [not_or] at hi
  exact ⟨by simpa using hlen, by simpa [hi.1] using hcmd, by simpa [hi.2] using hbc⟩

/-- Settles O21: a flip in byte 6 or 7 breaks the structure; any other keeps it, and flips a bit of the fold 0x00. -/
theorem singleBitFlipIsDetected : Obligations.SingleBitFlipIsDetected := by
  intro a cmd len data f i k hf hi hk
  have hstructure := structure_of_encodeFrame hf
  have hbit := single_bit_ne_zero hk
  split
  · next h67 => exact decodeFrame_of_not_structure (not_structure_of_set hstructure h67 (xor_ne_self hbit))
  · next h67 =>
    have hfold : xorFold (f.set i (f.getD i 0#8 ^^^ 1#8 <<< k)) ≠ 0#8 := by
      rw [xorFold_set_xor (by rw [hstructure.1]; exact hi), encodedFrameFoldsToZero _ _ _ _ _ hf, BitVec.zero_xor]
      exact hbit
    rw [decodeFrame_of_structure (structure_set hstructure h67 _), if_neg hfold]

end Sys2Proof.Machine
end
section
/-! The diagnostic field mapper (42_diagnostic_mapper.md): what R122 asks of a `FLAG_MAP`, what DIAG_MAP reads of a
payload (R124, R125), and that one bit gives one flag (R126). -/

namespace Sys2Proof.Machine

/-! ### The table -/

theorem singleBit_iff {m : Byte} : Config.singleBit m = true ↔ ∃ k < 8, m = 1#8 <<< k := by
  simp [Config.singleBit]

theorem flagMapOk_iff {fm : List Config.FlagEntry} : Config.flagMapOk fm = true ↔
    (∀ e ∈ fm, (1 ≤ e.byte ∧ e.byte ≤ 6) ∧ Config.singleBit e.mask = true) ∧
      (fm.map fun e => (e.byte, e.mask)).Nodup ∧ (fm.map fun e => e.name).Nodup := by
  simp [Config.flagMapOk, and_assoc]

/-- An instance cannot be built with a table outside R122. -/
theorem flagMapOk_of_params (p : Config.Params) : Config.flagMapOk p.val.flagMap = true :=
  (Bool.and_eq_true_iff.mp p.property).2

/-! ### The flags by name -/

/-- No two entries have the same name, so the first entry of a name is its only one. -/
theorem find?_name_of_mem {fm : List Config.FlagEntry} (hnames : (fm.map fun e => e.name).Nodup)
    {e : Config.FlagEntry} (he : e ∈ fm) : fm.find? (fun e' => e'.name == e.name) = some e := by
  have hsome : (fm.find? fun e' => e'.name == e.name).isSome :=
    List.find?_isSome.mpr ⟨e, he, beq_self_eq_true e.name⟩
  obtain ⟨e', hfound⟩ := Option.isSome_iff_exists.mp hsome
  have hname : e'.name = e.name := by simpa using List.find?_some hfound
  rw [hfound, List.inj_on_of_nodup_map hnames (List.mem_of_find?_eq_some hfound) he hname]

theorem diagMap_flag_of_mem {fm : List Config.FlagEntry} (hfm : Config.flagMapOk fm = true) {e : Config.FlagEntry}
    (he : e ∈ fm) (d : List Byte) : (diagMap fm d).flag e.name = some (bfTest (d.getD e.byte 0#8) e.mask) := by
  obtain ⟨-, -, hnames⟩ := flagMapOk_iff.mp hfm
  simp [Diagnostics.flag, diagMap, List.find?_map, find?_name_of_mem hnames he]

theorem diagMap_flag_of_not_mem {fm : List Config.FlagEntry} {n : Config.FlagName}
    (hn : n ∉ fm.map fun e => e.name) (d : List Byte) : (diagMap fm d).flag n = none := by
  rw [Diagnostics.flag, Option.map_eq_none_iff, List.find?_eq_none]
  rintro _ hf
  obtain ⟨e, he, rfl⟩ := List.mem_map.mp hf
  simpa using fun hname : e.name = n => hn (List.mem_map.mpr ⟨e, he, hname⟩)

theorem diagMap_flag_names (fm : List Config.FlagEntry) (d : List Byte) :
    (diagMap fm d).flags.map (fun f => f.1) = fm.map fun e => e.name := by
  simp [diagMap]

/-! ### The bytes that are read -/

theorem getD_between_ends {mid : List Byte} {i : Nat} (hpos : 1 ≤ i) (hle : i ≤ mid.length) (x y : Byte) :
    (x :: (mid ++ [y])).getD i 0#8 = mid.getD (i - 1) 0#8 := by
  obtain ⟨i, rfl⟩ := Nat.exists_eq_add_of_le' hpos
  rw [List.getD_cons_succ, List.getD_append _ _ _ _ hle, Nat.add_sub_cancel]

/-- The entries name the data bytes 1..6 only, so the first and the last byte are read by nothing (R124). -/
theorem diagMap_between_ends {fm : List Config.FlagEntry} (hfm : Config.flagMapOk fm = true) {mid : List Byte}
    (hmid : mid.length = 6) (x y : Byte) : diagMap fm (x :: (mid ++ [y])) =
      { status := mid, flags := fm.map fun e => (e.name, bfTest (mid.getD (e.byte - 1) 0#8) e.mask) } := by
  obtain ⟨hentries, -, -⟩ := flagMapOk_iff.mp hfm
  rw [diagMap, List.drop_one, List.tail_cons, List.take_left' hmid, Diagnostics.mk.injEq]
  refine ⟨rfl, List.map_congr_left fun e he => ?_⟩
  obtain ⟨⟨hpos, hle⟩, -⟩ := hentries e he
  rw [getD_between_ends hpos (hmid ▸ hle)]

/-! ### The call -/

theorem decode_diagMap {ops : FnOperands} (h : ops.buf.length = 8) :
    decode (.fn 0x15#8 ops) = .ok (.diagMap ops.buf) :=
  if_pos h

theorem exec_diagMap {s : State} {d : List Byte} (hs : s.st.unused = false) (h : d.length = 8) :
    exec (.diagMap d) s = .next { s with fnOut := s.fnOut ++ [.diagnostics (diagMap s.cfg.val.flagMap d)] } :=
  (if_pos h).trans (answerFn_next.mpr ⟨hs, rfl⟩)

/-- Settles O23: the call answers the mapped record, which the lemmas above read. -/
theorem diagMapAnswers : Obligations.DiagMapAnswers := by
  refine ⟨fun _ h => decode_diagMap h, fun s d0 d1 d2 d3 d4 d5 d6 d7 hs => ?_⟩
  have hfm := flagMapOk_of_params s.cfg
  have hends (x y : Byte) := diagMap_between_ends hfm (mid := [d1, d2, d3, d4, d5, d6]) rfl x y
  exact ⟨_, exec_diagMap hs rfl, rfl, fun e he => diagMap_flag_of_mem hfm he _, diagMap_flag_names _ _,
    fun n hn => diagMap_flag_of_not_mem hn _, rfl, fun x y => (hends x y).trans (hends d0 d7).symm⟩

/-! ### One bit, one flag -/

theorem bfTest_zero (m : Byte) : bfTest 0#8 m = false := by
  simp [bfTest]

theorem bfTest_self {m : Byte} (hm : Config.singleBit m = true) : bfTest m m = true := by
  obtain ⟨k, hk, rfl⟩ := singleBit_iff.mp hm
  rw [bfTest_eq_true_iff, BitVec.and_self]
  exact single_bit_ne_zero hk

theorem bfTest_of_ne {m m' : Byte} (hm : Config.singleBit m = true) (hm' : Config.singleBit m' = true)
    (hne : m' ≠ m) : bfTest m m' = false := by
  obtain ⟨k, -, rfl⟩ := singleBit_iff.mp hm
  obtain ⟨j, hj, rfl⟩ := singleBit_iff.mp hm'
  have hjk : k ≠ j := fun h => hne (by rw [h])
  rw [bfTest_single_bit _ hj, ← BitVec.twoPow_eq, BitVec.getLsbD_twoPow]
  simp [hjk]

/-- The payload of R126: all 0x00 but for one entry's mask at its byte. -/
theorem getD_oneBitPayload {i : Nat} (hi : i < 8) (m : Byte) (j : Nat) :
    ((List.replicate 8 0#8).set i m).getD j 0#8 = if i = j then m else 0#8 := by
  rw [List.getD_eq_getElem?_getD, List.getElem?_set]
  split
  · simp [hi]
  · exact List.getElem?_getD_replicate_default_eq 0#8 8 j

/-- Settles O24: at its own byte the mask meets itself; another entry reads another byte, or a mask with another bit,
since no two entries share both. -/
theorem flagFidelity : Obligations.FlagFidelity := by
  intro p e he
  have hfm := flagMapOk_of_params p
  obtain ⟨hentries, hbits, -⟩ := flagMapOk_iff.mp hfm
  obtain ⟨⟨-, hbyte⟩, hmask⟩ := hentries e he
  have hread := getD_oneBitPayload (Nat.lt_of_le_of_lt hbyte (by decide)) e.mask
  refine ⟨?_, fun e' he' hname => ?_⟩
  · rw [diagMap_flag_of_mem hfm he, hread, if_pos rfl, bfTest_self hmask]
  · obtain ⟨-, hmask'⟩ := hentries e' he'
    rw [diagMap_flag_of_mem hfm he', hread]
    split
    · next hsame =>
      have hne : e'.mask ≠ e.mask := fun h =>
        hname (congrArg Config.FlagEntry.name (List.inj_on_of_nodup_map hbits he' he (by rw [hsame, h])))
      rw [bfTest_of_ne hmask hmask' hne]
    · rw [bfTest_zero]

end Sys2Proof.Machine
end
section
/-! What each MAC instruction does in the state that takes it, as an equation, and in the states that do not
(43_mac_controller.md R132 to R161). -/

namespace Sys2Proof.Machine

open Sys2Proof.Safety

/-! ### Waiting (R136) and the outstanding call (R144, R159) -/

theorem fetch_none {s : State} (hin : s.inbox = []) (hst : s.st = .idle ∨ waitsForPhy s.st = true) :
    fetch s = none := by
  rw [fetch, hin]
  cases h : s.st <;> simp [h, waitsForPhy] at hst ⊢

theorem legal_of_idle_or_waits {st : MacState} (h : st = .idle ∨ waitsForPhy st = true) : st.unused = false := by
  cases st <;> simp [waitsForPhy, MacState.unused] at h ⊢

/-- Settles O6: nothing is fetched, and the block waits. -/
theorem blockWaitsForAnEvent : Obligations.BlockWaitsForAnEvent := by
  intro s hin hst
  rw [step, fetch_none hin hst]
  exact inLegalState_of_legal (legal_of_idle_or_waits hst) _

theorem phyCall_firstRead {s : State} (h : s.st = .awaitRsp) (hn : s.rxCnt.toNat = 0) :
    phyCall s = .ok (some (.readByte s.cfg.val.deadlineFirst)) := by
  rw [phyCall_awaitRsp h, if_pos (BitVec.eq_of_toNat_eq hn)]

theorem phyCall_laterRead {s : State} (h : s.st = .awaitRsp) (hn : 1 ≤ s.rxCnt.toNat) :
    phyCall s = .ok (some (.readByte s.cfg.val.deadlineNext)) := by
  rw [phyCall_awaitRsp h, if_neg (by bv_omega)]

/-- Settles O41: by the value of `st`, and in `AWAIT_RSP` by whether a byte has arrived. -/
theorem outstandingCallOfState : Obligations.OutstandingCallOfState := fun s =>
  ⟨phyCall_awaitEn, fun _ h hl hb => phyCall_tx h (readBuf_ok.mpr ⟨hl, hb⟩), phyCall_firstRead, phyCall_laterRead,
    fun h => phyCall_none (by obtain h | h | h := h <;> rw [h] <;> rfl)⟩

/-! ### Requests (R131 to R135) -/

theorem exec_req_busy {s : State} (hl : s.st.unused = false) (h : s.st ≠ .idle) (c : Byte) (b : ReqBundle) :
    exec (.req c b) s = .next (emitHost c .busy s) :=
  (inLegalState_of_legal hl _).trans (if_pos (by simpa [busy] using h))

theorem exec_req_idle {s : State} (h : s.st = .idle) (c : Byte) (b : ReqBundle) :
    exec (.req c b) s = requestInIdle c b s :=
  (inLegalState_of_legal (by rw [h]; rfl) _).trans (if_neg (by simp [busy, h]))

theorem exec_req_accepted {s : State} (h : s.st = .idle) (c : Byte) {b : ReqBundle} {f : List Byte}
    (hf : encodeFrame b.addr b.cmd b.len b.data = .ok f) :
    exec (.req c b) s = .next { acceptRequest c f s with phyOut := s.phyOut ++ [.enableTransmit] } := by
  rw [exec_req_idle h, requestInIdle, hf]
  exact issueCall_of_call (phyCall_awaitEn rfl)

theorem exec_req_rejected {s : State} (h : s.st = .idle) (c : Byte) {b : ReqBundle}
    (hf : encodeFrame b.addr b.cmd b.len b.data = .error .invalidPayloadLength) :
    exec (.req c b) s = .next (emitHost c .invalidPayloadLength s) := by
  rw [exec_req_idle h, requestInIdle, hf]

/-- A well-formed bundle of Command 48 encodes (41_frame_codec.md R109). -/
theorem encodeFrame_of_wf {b : ReqBundle} (hwf : b.wf = true) (hcmd : b.cmd = Config.cmd48)
    (hlen : b.len = Config.bc48) :
    ∃ f, encodeFrame b.addr b.cmd b.len b.data = .ok f := by
  have hdata : b.data.length = b.len.toNat := by simpa [ReqBundle.wf] using hwf
  exact ⟨_, encodeFrame_ok.mpr ⟨⟨hcmd, hlen⟩, by rw [hdata, hlen]; rfl, rfl⟩⟩

/-- The frame of an accepted request stands in `txf[0..16]` (R133). -/
theorem read_txf_acceptRequest {f : List Byte} (hf : f.length = 17) (c : Byte) (s : State) (j : Nat) :
    (acceptRequest c f s).txf.read j = if j < 17 then f[j]? else s.txf.read j := by
  simp [read_writeBytes, hf]

/-- Settles O25: `busy` is tested before any look at the request. -/
theorem requestWhileBusyAnswersBusy : Obligations.RequestWhileBusyAnswersBusy := fun _ c b hl h =>
  exec_req_busy hl h c b

/-- Settles O27: such a request does not encode. -/
theorem requestRejected : Obligations.RequestRejected := fun _ c b h hbad =>
  exec_req_rejected h c (encodeFrame_error b.data hbad)

/-- Settles O26: the request encodes, and acceptance stores the frame. -/
theorem requestAccepted : Obligations.RequestAccepted := by
  intro s c b h hwf hcmd hlen
  obtain ⟨f, hf⟩ := encodeFrame_of_wf hwf hcmd hlen
  have hlength := length_of_encodeFrame hf
  exact ⟨_, f, exec_req_accepted h c hf, hf, hlength, read_txf_acceptRequest hlength c s, fun _ => rfl, rfl⟩

/-! ### The frame goes out (R137, R142) -/

theorem exec_txenOk {s : State} (h : s.st = .awaitEn) (x : Byte) {b0 : Byte} (hb : s.txf.read 0 = some b0) :
    exec (.txenOk x) s = .next { s with txIdx := 0, st := .tx, phyOut := s.phyOut ++ [.writeByte b0] } :=
  (onAnswer_expected h rfl _).trans (issueCall_of_call (phyCall_tx rfl (readBuf_ok.mpr ⟨Nat.zero_lt_succ 16, hb⟩)))

theorem exec_wrOk_next {s : State} (h : s.st = .tx) (x : Byte) (hi : s.txIdx.toNat < 16) {b : Byte}
    (hb : s.txf.read (s.txIdx.toNat + 1) = some b) :
    exec (.wrOk x) s = .next { s with txIdx := s.txIdx + 1, phyOut := s.phyOut ++ [.writeByte b] } := by
  have hidx : (s.txIdx + 1).toNat = s.txIdx.toNat + 1 := by bv_omega
  have hread : readBuf .txf s.txf (s.txIdx + 1).toNat = .ok b := by
    rw [hidx]
    exact readBuf_ok.mpr ⟨Nat.succ_lt_succ hi, hb⟩
  refine (onAnswer_expected h rfl _).trans ((if_neg ?_).trans (issueCall_of_call (phyCall_tx h hread)))
  show ¬s.txIdx + 1 = 17#5
  bv_omega

theorem exec_wrOk_last {s : State} (h : s.st = .tx) (x : Byte) (hi : s.txIdx.toNat = 16) :
    exec (.wrOk x) s =
      .next { s with txIdx := 17, rxCnt := 0, rxExp := 0, st := .awaitRsp,
                     phyOut := s.phyOut ++ [.readByte s.cfg.val.deadlineFirst] } := by
  have hidx : s.txIdx + 1 = 17#5 := by bv_omega
  refine (onAnswer_expected h rfl _).trans ?_
  simp only [hidx, if_true]
  exact issueCall_of_call (phyCall_firstRead rfl rfl)

theorem decode_txenOk (x : Byte) (b : ReqBundle) : decode (.ev (evWord 0x02#8 x) b) = .ok (.txenOk x) := by
  simp [decode, decodeEvent]

theorem decode_wrOk (x : Byte) (b : ReqBundle) : decode (.ev (evWord 0x04#8 x) b) = .ok (.wrOk x) := by
  simp [decode, decodeEvent]

/-- Settles O29: byte 0 is read for the call of `TX`. -/
theorem transmitEnableStartsSending : Obligations.TransmitEnableStartsSending :=
  ⟨decode_txenOk, fun _ x _ h hb => exec_txenOk h x hb⟩

/-- Settles O30: by whether the counted byte was the 17th. -/
theorem byteWrittenAdvances : Obligations.ByteWrittenAdvances :=
  ⟨decode_wrOk, fun _ x h => ⟨fun _ hi hb => exec_wrOk_next h x hi hb, exec_wrOk_last h x⟩⟩

/-! ### Failing answers (R138, R141, R146, R147) and stray events (R161) -/

theorem onAnswer_failAttempt {e : MacState} {s : State} (h : s.st = e) (hl : e.unused = false) (c : Cause) :
    onAnswer e s (failAttempt c s) = .next { s with lastCause := c, st := .retry } :=
  (onAnswer_expected h hl _).trans (failAttempt_eq c s)

theorem decode_rxTimeout (x : Byte) (b : ReqBundle) : decode (.ev (evWord 0x07#8 x) b) = .ok (.rxTimeout x) := by
  simp [decode, decodeEvent]

/-- Settles O31: each of the four fails the attempt, with its cause. -/
theorem failingAnswersFailTheAttempt : Obligations.FailingAnswersFailTheAttempt := by
  refine ⟨fun x b => ⟨?_, ?_, decode_rxTimeout x b, ?_⟩, fun s x =>
    ⟨fun h => onAnswer_failAttempt h rfl _, fun h => onAnswer_failAttempt h rfl _,
      fun h => onAnswer_failAttempt h rfl _, fun h => onAnswer_failAttempt h rfl _⟩⟩
  all_goals simp [decode, decodeEvent]

/-- Settles O33: a stray event is one of the PHY's, in another state than the one that waits for it. -/
theorem strayEventsAreDropped : Obligations.StrayEventsAreDropped := by
  intro s i hl h
  cases i with
  | txenOk _ | txenErr _ | wrOk _ | wrErr _ | rxByte _ | rxTimeout _ | rxErr _ =>
    exact onAnswer_stray (by simpa [stray] using h) hl _
  | _ => cases h

/-! ### The internal steps (R155, R157) -/

theorem exec_retryStep {s : State} (h : s.st = .retry) : exec .retryStep s = returnFromError s :=
  (inLegalState_of_legal (by rw [h]; rfl) _).trans (if_pos h)

theorem exec_resolveStep {s : State} (h : s.st = .resolved) {c : Byte} {r : TransactionResult}
    (ho : s.owner = some c) (hr : s.res = some r) :
    exec .resolveStep s = .next (afterReport (emitHost c r s)) := by
  refine (inLegalState_of_legal (by rw [h]; rfl) _).trans ((if_pos h).trans ?_)
  rw [reportResult, ho, hr]

theorem decode_st_retry {st : MacState} (h : st = .retry) : decode (.st st.code) = .ok .retryStep := by
  rw [h]
  rfl

theorem decode_st_resolved {st : MacState} (h : st = .resolved) : decode (.st st.code) = .ok .resolveStep := by
  rw [h]
  rfl

/-- Settles O34: the incremented count, which does not wrap, is compared with the budget. -/
theorem retryStepRetriesOrEnds : Obligations.RetryStepRetriesOrEnds := by
  intro s h hlt
  have hcnt : (s.retryCnt + 1).toNat = s.retryCnt.toNat + 1 := by bv_omega
  refine ⟨decode_st_retry h, fun hb => ?_, fun hb => ?_⟩
  · exact (exec_retryStep h).trans (returnFromError_again (by omega))
  · exact (exec_retryStep h).trans (returnFromError_end (by omega))

/-- Settles O35: the owner and the pending result are there, and the result is reported. -/
theorem resolveStepReports : Obligations.ResolveStepReports := fun _ _ _ h ho hr =>
  ⟨decode_st_resolved h, exec_resolveStep h ho hr⟩

/-! ### A response byte (R145) -/

theorem decode_rxByte (x : Byte) (b : ReqBundle) : decode (.ev (evWord 0x06#8 x) b) = .ok (.rxByte x) := by
  simp [decode, decodeEvent]

theorem frameComplete_iff {s : State} :
    frameComplete s = true ↔ s.rxExp.toNat ≠ 0 ∧ s.rxCnt.toNat = s.rxExp.toNat := by
  simp [frameComplete, ← BitVec.toNat_inj]

/-- Short of the frame's end, the byte is stored and the next one called for. -/
theorem exec_rxByte_short {s : State} (h : s.st = .awaitRsp) (hl : s.rxCnt.toNat < 264) {b : Byte}
    (hc : ¬frameComplete (stored b s) = true) :
    exec (.rxByte b) s =
      .next { stored b s with phyOut := s.phyOut ++ [.readByte s.cfg.val.deadlineNext] } := by
  have hcall : phyCall (stored b s) = .ok (some (.readByte s.cfg.val.deadlineNext)) :=
    phyCall_laterRead h (by rw [stored_rxCnt_toNat hl]; omega)
  refine (onAnswer_expected h rfl _).trans ?_
  rw [receiveByte, writeBuf_ok.mpr ⟨hl, rfl⟩]
  exact (if_neg hc).trans (issueCall_of_call hcall)

/-- At the frame's end, the byte is stored and the bytes received are judged. -/
theorem exec_rxByte_complete {s : State} (h : s.st = .awaitRsp) (hl : s.rxCnt.toNat < 264) {b : Byte}
    (hc : frameComplete (stored b s) = true) {bytes : List Byte}
    (hread : readBytes .rxb (stored b s).rxb 0 (stored b s).rxCnt.toNat = .ok bytes) :
    exec (.rxByte b) s = completeResponse bytes (stored b s) := by
  refine (onAnswer_expected h rfl _).trans ?_
  rw [receiveByte, writeBuf_ok.mpr ⟨hl, rfl⟩]
  refine (if_pos hc).trans ?_
  rw [hread]

theorem completeResponse_ok {bytes : List Byte} {df : DecodedFrame} (hd : decodeFrame bytes = .ok df) (s : State) :
    completeResponse bytes s =
      .next { s with res := some (.success df (diagMap s.cfg.val.flagMap df.data) s.retryCnt s.lastCause)
                     st := .resolved } := by
  rw [completeResponse, hd]
  exact issueCall_of_none (phyCall_none rfl)

theorem completeResponse_error {bytes : List Byte} {e : FrameError} (hd : decodeFrame bytes = .error e) (s : State) :
    completeResponse bytes s = .next { s with lastCause := causeOfFrameError e, st := .retry } := by
  rw [completeResponse, hd]
  exact failAttempt_eq _ s

/-- The bytes received so far and the one stored are what DECODE reads (10_state.md R32). -/
theorem readBytes_stored {s : State} (hl : s.rxCnt.toNat < 264) (b : Byte) {got : List Byte}
    (hlen : got.length = s.rxCnt.toNat) (hgot : ∀ j, j < got.length → s.rxb.read j = got[j]?) :
    readBytes .rxb (stored b s).rxb 0 (stored b s).rxCnt.toNat = .ok (got ++ [b]) := by
  rw [stored_rxCnt_toNat hl]
  refine readBytes_ok.mpr ⟨by simp [hlen], fun j hj => ⟨by rw [size_rxb]; omega, ?_⟩⟩
  rw [Nat.zero_add, countByte_rxb, read_write]
  split
  · next hend => simp [hend, ← hlen]
  · rw [List.getElem?_append_left (by omega), hgot j (by omega)]

/-- Settles O32: by whether the byte completes the frame, and by DECODE's verdict where it does. -/
theorem responseByteReceived : Obligations.ResponseByteReceived := by
  refine ⟨decode_rxByte, fun s b h hl => ?_⟩
  have hcnt := stored_rxCnt_toNat hl b
  have hexp := stored_rxExp_toNat hl b
  refine ⟨fun hshort => ?_, fun got hlen hgot hend => ?_⟩
  · have hc : ¬frameComplete (stored b s) = true := by
      rw [frameComplete_iff, hcnt, hexp]
      omega
    exact ⟨_, exec_rxByte_short h hl hc, fun j => read_write _ _ j b, fun _ => rfl, hexp, rfl⟩
  · have hc : frameComplete (stored b s) = true := by
      rw [frameComplete_iff, hcnt, hexp]
      omega
    have hexec := exec_rxByte_complete h hl hc (readBytes_stored hl b hlen hgot)
    cases hd : decodeFrame (got ++ [b]) with
    | ok df =>
      refine ⟨_, hexec.trans (completeResponse_ok hd _), fun j => read_write _ _ j b, fun _ => rfl, hexp, ?_, nofun,
        nofun⟩
      rintro _ ⟨⟩
      rfl
    | error e =>
      refine ⟨_, hexec.trans (completeResponse_error hd _), fun j => read_write _ _ j b, fun _ => rfl, hexp, nofun, ?_,
        ?_⟩
      all_goals
        rintro ⟨⟩
        rfl

end Sys2Proof.Machine
end
section
/-! What the moves say of the PHY's calls, of the answers to the host and of the ways into `RETRY`
(43_mac_controller.md R153, R158, R159), and that from a state with the invariants every input the ports can carry is
taken (R162). -/

namespace Sys2Proof.Machine

open Sys2Proof.Safety

/-! ### The calls (R130, R159, R160; log 20) -/

/-- A stray event answers no outstanding call (R161). -/
theorem advances_of_stray {st : MacState} {i : Instr} (h : stray st i = true) : advances st i = false := by
  cases i with
  | txenOk _ | txenErr _ | wrOk _ | wrErr _ | rxByte _ | rxTimeout _ | rxErr _ => simpa [stray, advances] using h
  | _ => cases h

theorem advances_of_fn {i : Instr} (h : ∃ code ops, encode i = .fn code ops) (st : MacState) :
    advances st i = false := by
  obtain ⟨_, _, hw⟩ := h
  cases i with
  | bfTest | bfSet | xorFold | encodeFn | decodeFn | diagMap => rfl
  | _ => cases hw

theorem advances_of_wire {i : Instr} (h : ∃ bytes, encode i = .wire bytes) (st : MacState) :
    advances st i = false := by
  obtain ⟨_, hw⟩ := h
  cases i with
  | delimStxUnique | cmd48Frame => rfl
  | _ => cases hw

theorem advances_idle (i : Instr) : advances .idle i = false := by
  cases i <;> rfl

/-- A move issues the call of the state it reaches and advances the transaction, or accepts a request, or leaves the
PHY alone. -/
theorem Moves.phyOut_cases {s t : State} {i : Instr} (h : Moves s i t) :
    (advances s.st i = true ∧ ∃ c, phyCall t = .ok c ∧ t.phyOut = s.phyOut ++ c.toList) ∨
      (advances s.st i = false ∧ s.st = .idle ∧ t.st = .awaitEn ∧ t.phyOut = s.phyOut ++ [.enableTransmit]) ∨
      (advances s.st i = false ∧ (s.st = .idle → t.st = .idle) ∧ t.phyOut = s.phyOut) := by
  cases h with
  | stray h => exact .inr (.inr ⟨advances_of_stray h, id, rfl⟩)
  | answered _ h => exact .inr (.inr ⟨advances_of_fn h _, id, rfl⟩)
  | delivered _ h => exact .inr (.inr ⟨advances_of_wire h _, id, rfl⟩)
  | reqBusy | reqRejected => exact .inr (.inr ⟨rfl, id, rfl⟩)
  | resetIdle | resetBusy => exact .inr (.inr ⟨rfl, fun _ => rfl, rfl⟩)
  | reqAccepted hst => exact .inr (.inl ⟨rfl, hst, rfl, rfl⟩)
  | enabled hst hb =>
    exact .inl ⟨by simp [hst, advances], _, phyCall_tx rfl (readBuf_ok.mpr ⟨Nat.zero_lt_succ 16, hb⟩), rfl⟩
  | byteWritten hst _ hl hb =>
    exact .inl ⟨by simp [hst, advances], _, phyCall_tx hst (readBuf_ok.mpr ⟨hl, hb⟩), rfl⟩
  | frameWritten hst => exact .inl ⟨by simp [hst, advances], _, phyCall_firstRead rfl rfl, rfl⟩
  | byteReceived hst _ _ hcall => exact .inl ⟨by simp [hst, advances], _, hcall, rfl⟩
  | retryAgain hst => exact .inl ⟨by simp [hst, advances], _, phyCall_awaitEn rfl, rfl⟩
  | enableFailed hst | writeFailed hst | frameAccepted hst | frameRefused hst | timedOut hst | readFailed hst
  | retryEnd hst | reported hst =>
    exact .inl ⟨by simp [hst, advances], none, phyCall_none rfl, by simp⟩

/-- The MAC uses three of the PHY's five capabilities (R130). -/
theorem phyCall_ne {s : State} {c : PhyCall} (h : phyCall s = .ok (some c)) : c ≠ .carrierPresent ∧ c ≠ .reset := by
  unfold phyCall at h
  split at h
  case h_2 =>
    split at h <;> cases h
    exact ⟨nofun, nofun⟩
  all_goals
    cases h <;> exact ⟨nofun, nofun⟩

/-- Settles O42: by the three things a move can do to the PHY; no transaction advances in `IDLE`. -/
theorem callsAreIssuedByAdvancingSteps : Obligations.CallsAreIssuedByAdvancingSteps := by
  intro s t i h
  obtain ⟨hadv, c, hcall, hout⟩ | ⟨hadv, hidle, hen, hout⟩ | ⟨hadv, hidle, hout⟩ := (exec_moves h).phyOut_cases
  · refine ⟨fun _ => ⟨c, hcall, hout⟩, fun hst => ?_, fun hno => ?_, fun d hd => ?_⟩
    · simp [hst, advances_idle] at hadv
    · simp [hno] at hadv
    · rw [hout, List.mem_append, Option.mem_toList] at hd
      exact hd.imp_right fun hd => phyCall_ne (hd ▸ hcall)
  · refine ⟨fun hyes => ?_, fun _ _ => hout, fun _ hor => ?_, fun d hd => ?_⟩
    · simp [hyes] at hadv
    · simp [hidle, hen] at hor
    · rw [hout, List.mem_append, List.mem_singleton] at hd
      refine hd.imp_right fun hd => ?_
      rw [hd]
      exact ⟨nofun, nofun⟩
  · refine ⟨fun hyes => ?_, fun hst hen => ?_, fun _ _ => hout, fun d hd => .inl (hout ▸ hd)⟩
    · simp [hyes] at hadv
    · rw [hidle hst] at hen
      cases hen

/-! ### The ways into `RETRY` (R153) -/

/-- Settles O49: of the moves, five lead to `RETRY`; the response byte among them completes its frame. -/
theorem onlyFailedAttemptsEnterRetry : Obligations.OnlyFailedAttemptsEnterRetry := by
  intro s t i h hs ht
  cases exec_moves h with
  | enableFailed hst => exact .inl ⟨hst, ⟨_, rfl⟩, rfl⟩
  | writeFailed hst => exact .inr (.inl ⟨hst, ⟨_, rfl⟩, rfl⟩)
  | timedOut hst => exact .inr (.inr (.inl ⟨hst, ⟨_, rfl⟩, rfl⟩))
  | readFailed hst => exact .inr (.inr (.inr (.inl ⟨hst, ⟨_, rfl⟩, rfl⟩)))
  | @frameRefused b got e hst hl hc hg hd =>
    obtain ⟨hexp, hcnt⟩ : (stored b s).rxExp ≠ 0 ∧ (stored b s).rxCnt = (stored b s).rxExp := by
      simpa [frameComplete] using hc
    refine .inr (.inr (.inr (.inr ⟨hst, b, got, rfl, hexp, hcnt, hg, ?_⟩)))
    cases e with
    | malformedFrame => exact .inl ⟨hd, rfl⟩
    | checksumMismatch => exact .inr ⟨hd, rfl⟩
  | stray | reqBusy | reqRejected | byteWritten | byteReceived | answered | delivered => exact absurd ht hs
  | _ => cases ht

/-! ### One answer to each request (R158) -/

/-- The instructions that can answer the host or change the owner. -/
def concernsHost : Instr → Bool
  | .req _ _ => true
  | .resolveStep => true
  | .resetReq _ => true
  | _ => false

theorem concernsHost_of_stray {st : MacState} {i : Instr} (h : stray st i = true) : concernsHost i = false := by
  cases i with
  | req | resolveStep | resetReq => cases h
  | _ => rfl

theorem concernsHost_of_fn {i : Instr} (h : ∃ code ops, encode i = .fn code ops) : concernsHost i = false := by
  obtain ⟨_, _, hw⟩ := h
  cases i with
  | req | resolveStep | resetReq => cases hw
  | _ => rfl

theorem concernsHost_of_wire {i : Instr} (h : ∃ bytes, encode i = .wire bytes) : concernsHost i = false := by
  obtain ⟨_, hw⟩ := h
  cases i with
  | req | resolveStep | resetReq => cases hw
  | _ => rfl

/-- What R158 asks of a step from `s` to `t` that runs `i`: the six cases of `Obligations.EachRequestIsAnsweredOnce`. -/
def AnswersItsCaller (s t : State) (i : Instr) : Prop :=
  (∃ c b, i = .req c b ∧ s.st ≠ .idle ∧ t.owner = s.owner ∧ t.hostOut = s.hostOut ++ [(c, .busy)]) ∨
  (∃ c b, i = .req c b ∧ s.st = .idle ∧ (b.cmd ≠ 0x30#8 ∨ b.len ≠ 8#8) ∧ t.owner = s.owner ∧
    t.hostOut = s.hostOut ++ [(c, .invalidPayloadLength)]) ∨
  (∃ c b, i = .req c b ∧ s.st = .idle ∧ b.cmd = 0x30#8 ∧ b.len = 8#8 ∧ s.owner = none ∧ t.owner = some c ∧
    t.hostOut = s.hostOut) ∨
  (∃ c r, i = .resolveStep ∧ s.owner = some c ∧ s.res = some r ∧ endsTransaction r = true ∧ t.owner = none ∧
    t.hostOut = s.hostOut ++ [(c, r)]) ∨
  (∃ x c, i = .resetReq x ∧ s.st ≠ .idle ∧ s.owner = some c ∧ t.owner = none ∧
    t.hostOut = s.hostOut ++ [(c, .commFailure .reset s.retryCnt s.lastCause)]) ∨
  ((∀ c b, i ≠ .req c b) ∧ i ≠ .resolveStep ∧ (∀ x, i = .resetReq x → s.st = .idle) ∧ t.owner = s.owner ∧
    t.hostOut = s.hostOut)

theorem answersItsCaller_of_silent {s t : State} {i : Instr} (hi : concernsHost i = false)
    (howner : t.owner = s.owner) (hout : t.hostOut = s.hostOut) : AnswersItsCaller s t i := by
  refine .inr (.inr (.inr (.inr (.inr ⟨?_, ?_, ?_, howner, hout⟩))))
  · rintro c b rfl
    cases hi
  · rintro rfl
    cases hi
  · rintro x rfl
    cases hi

/-- A well-formed request that does not encode has another command or another length (41_frame_codec.md R109). -/
theorem bad_head_of_encodeFrame_error {b : ReqBundle} (hwf : b.wf = true) {e : EncodeError}
    (h : encodeFrame b.addr b.cmd b.len b.data = .error e) : b.cmd ≠ Config.cmd48 ∨ b.len ≠ Config.bc48 := by
  by_contra hgood
  simp only [not_or, not_not] at hgood
  obtain ⟨f, hf⟩ := encodeFrame_of_wf hwf hgood.1 hgood.2
  rw [hf] at h
  cases h

theorem owner_none_of_idle {s : State} (h : Inv s) (hst : s.st = .idle) : s.owner = none := by
  have hbusy := h.owner_iff_busy
  simpa [busy, hst] using hbusy

/-- Each move of a well-formed instruction answers as R158 asks. -/
theorem Moves.answersItsCaller {s t : State} {i : Instr} (h : Inv s) (hwf : i.wf = true) (hm : Moves s i t) :
    AnswersItsCaller s t i := by
  cases hm with
  | reqBusy hst => exact .inl ⟨_, _, rfl, hst, rfl, rfl⟩
  | reqRejected hst hf =>
    exact .inr (.inl ⟨_, _, rfl, hst, bad_head_of_encodeFrame_error hwf hf, rfl, rfl⟩)
  | reqAccepted hst hf =>
    obtain ⟨⟨hcmd, hlen⟩, -⟩ := encodeFrame_ok.mp hf
    exact .inr (.inr (.inl ⟨_, _, rfl, hst, hcmd, hlen, owner_none_of_idle h hst, rfl, rfl⟩))
  | reported _ ho hr => exact .inr (.inr (.inr (.inl ⟨_, _, rfl, ho, hr, h.res_final _ hr, rfl, rfl⟩)))
  | resetBusy hst ho => exact .inr (.inr (.inr (.inr (.inl ⟨_, _, rfl, hst, ho, rfl, rfl⟩))))
  | resetIdle hst =>
    exact .inr (.inr (.inr (.inr (.inr ⟨nofun, nofun, fun _ _ => hst, (owner_none_of_idle h hst).symm, rfl⟩))))
  | stray hi => exact answersItsCaller_of_silent (concernsHost_of_stray hi) rfl rfl
  | answered _ hi => exact answersItsCaller_of_silent (concernsHost_of_fn hi) rfl rfl
  | delivered _ hi => exact answersItsCaller_of_silent (concernsHost_of_wire hi) rfl rfl
  | _ => exact answersItsCaller_of_silent rfl rfl rfl

/-- Settles O48: the instruction the step runs makes a move that answers; an input that is none changes the schedule
only. -/
theorem eachRequestIsAnsweredOnce : Obligations.EachRequestIsAnsweredOnce := by
  intro s t h hstep
  refine ⟨fun w s1 i hf hd => ?_, fun hnone => ?_⟩
  · rw [step_of_fetch_of_decode hf hd] at hstep
    obtain ⟨inb, rfl⟩ : ∃ inb, s1 = { s with inbox := inb } := ⟨_, fetch_some hf⟩
    have hanswer := (exec_moves hstep).answersItsCaller (inv_with_inbox h inb) (wf_of_decode hd)
    exact hanswer
  · obtain ⟨-, -, rfl⟩ | ⟨w, s1, hf, ⟨i, hd, -⟩ | ⟨e, -, hr⟩⟩ := step_next hstep
    · exact ⟨rfl, rfl⟩
    · exact absurd hd (hnone w s1 i hf)
    · rw [(rejected_next hr).2, fetch_some hf]
      exact ⟨rfl, rfl⟩

end Sys2Proof.Machine

namespace Sys2Proof.Safety

open Sys2Proof.Machine

/-! ### What the ports can carry is not refused (R162) -/

theorem inLegalState_ne_refused {s : State} {k : Out} {r : Refusal} (hs : s.st.unused = false)
    (hk : k ≠ .refused r) : inLegalState s k ≠ .refused r := by
  rwa [inLegalState_of_legal hs]

theorem onAnswer_ne_refused {e : MacState} {s : State} {k : Out} {r : Refusal} (hs : s.st.unused = false)
    (hk : k ≠ .refused r) : onAnswer e s k ≠ .refused r := by
  refine inLegalState_ne_refused hs ?_
  split
  · exact hk
  · exact nofun

theorem issueCall_ne_refused (s : State) (r : Refusal) : issueCall s ≠ .refused r := by
  unfold issueCall
  split <;> exact nofun

theorem execReq_ne_refused {s : State} (hs : s.st.unused = false) (c : Byte) (b : ReqBundle) (r : Refusal) :
    execReq c b s ≠ .refused r := by
  refine inLegalState_ne_refused hs ?_
  split
  · exact nofun
  · unfold requestInIdle
    split
    · exact issueCall_ne_refused _ r
    · exact nofun

theorem execWrOk_ne_refused {s : State} (hs : s.st.unused = false) (ign : Byte) (r : Refusal) :
    execWrOk ign s ≠ .refused r := by
  refine onAnswer_ne_refused hs ?_
  dsimp only
  split <;> exact issueCall_ne_refused _ r

theorem receiveByte_ne_refused (b : Byte) (s : State) (r : Refusal) : receiveByte b s ≠ .refused r := by
  unfold receiveByte completeResponse
  split
  · exact nofun
  · dsimp only
    split
    · split
      · exact nofun
      · split <;> exact issueCall_ne_refused _ r
    · exact issueCall_ne_refused _ r

theorem execResetReq_ne_refused {s : State} (hs : s.st.unused = false) (ign : Byte) (r : Refusal) :
    execResetReq ign s ≠ .refused r := by
  refine inLegalState_ne_refused hs ?_
  unfold abandon
  split
  · split <;> exact nofun
  · exact nofun

theorem execRetryStep_ne_refused {s : State} (hst : s.st = .retry) (r : Refusal) : execRetryStep s ≠ .refused r := by
  obtain ⟨t, ht⟩ := returnFromError_total s
  have hexec : execRetryStep s = .next t := (exec_retryStep hst).trans ht
  rw [hexec]
  exact nofun

theorem execResolveStep_ne_refused {s : State} (hst : s.st = .resolved) (r : Refusal) :
    execResolveStep s ≠ .refused r := by
  refine inLegalState_ne_refused (by rw [hst]; rfl) ?_
  rw [if_pos hst, reportResult]
  split <;> exact nofun

/-- In a legal state a well-formed instruction is not refused, an internal step where `st` selects it. -/
theorem exec_ne_refused {s : State} (hs : s.st.unused = false) {i : Instr} (hwf : i.wf = true)
    (hint : isInternalStep i = true → decode (.st s.st.code) = .ok i) (r : Refusal) : exec i s ≠ .refused r := by
  cases i with
  | req c b => exact execReq_ne_refused hs c b r
  | wrOk ign => exact execWrOk_ne_refused hs ign r
  | rxByte b => exact onAnswer_ne_refused hs (receiveByte_ne_refused b s r)
  | txenOk | txenErr | wrErr | rxTimeout | rxErr => exact onAnswer_ne_refused hs (issueCall_ne_refused _ r)
  | resetReq ign => exact execResetReq_ne_refused hs ign r
  | bfTest | bfSet | xorFold | encodeFn | decodeFn | diagMap =>
    obtain ⟨a, ha⟩ := exec_eq_answerFn ⟨_, _, rfl⟩ hwf s
    rw [ha]
    exact inLegalState_ne_refused hs nofun
  | retryStep =>
    obtain ⟨hst, -⟩ | ⟨-, hne⟩ := decode_st_ok (hint rfl)
    · exact execRetryStep_ne_refused (by simpa using hst) r
    · cases hne
  | resolveStep =>
    obtain ⟨-, hne⟩ | ⟨hst, -⟩ := decode_st_ok (hint rfl)
    · cases hne
    · exact execResolveStep_ne_refused (by simpa using hst) r
  | delimStxUnique | cmd48Frame => exact inLegalState_ne_refused hs nofun

/-- The words taken for an internal step are the value of `st` (30_encoding.md R98). -/
theorem fetch_st {s s1 : State} {bits : BitVec 3} (h : fetch s = some (.st bits, s1)) : bits = s.st.code := by
  cases hin : s.inbox with
  | nil =>
    simp only [fetch, hin] at h
    split at h <;> cases h <;> rfl
  | cons x rest =>
    rw [fetch_scheduled hin] at h
    cases x with
    | internal =>
      cases h
      rfl
    | _ => cases h

/-- An internal step is run where `st` selects it. -/
theorem internal_selected {s s1 : State} {w : Raw} {i : Instr} (hf : fetch s = some (w, s1)) (hd : decode w = .ok i)
    (hi : isInternalStep i = true) : decode (.st s.st.code) = .ok i := by
  cases w with
  | st bits => rwa [← fetch_st hf]
  | ev _ _ => simp [decodeEvent_not_internal hd] at hi
  | fn _ _ => simp [decodeFunction_not_internal hd] at hi
  | wire _ => simp [decodeWire_not_internal hd] at hi

theorem step_ne_refused {s : State} (hs : s.st.unused = false) (hc : Carriable s) (r : Refusal) :
    step s ≠ .refused r := by
  cases hf : fetch s with
  | none =>
    rw [step, hf]
    exact inLegalState_ne_refused hs nofun
  | some p =>
    obtain ⟨w, s1⟩ := p
    have hst : s1.st = s.st := by rw [fetch_some hf]
    have hs1 : s1.st.unused = false := hst ▸ hs
    rw [step_of_fetch hf]
    obtain ⟨i, hd⟩ | ⟨c, hd⟩ | ⟨bs, hd⟩ := hc w s1 hf
    · rw [runRaw_of_decode hd]
      exact exec_ne_refused hs1 (wf_of_decode hd) (fun hi => hst ▸ internal_selected hf hd hi) r
    · rw [runRaw_of_reject hd]
      exact inLegalState_ne_refused hs1 nofun
    · rw [runRaw_of_reject hd]
      exact inLegalState_ne_refused hs1 nofun

/-- Settles O47: the step neither faults nor is refused, so it goes on, and the invariants are kept. -/
theorem everyCarriableInputIsTaken : Obligations.EveryCarriableInputIsTaken := by
  intro s h hc
  cases hstep : step s with
  | next t => exact ⟨t, rfl, everyStepKeepsTheInvariants s t h hstep⟩
  | fault f => exact absurd hstep (noStepFaults s f h)
  | refused r => exact absurd hstep (step_ne_refused h.legal hc r)

end Sys2Proof.Safety
end
section
/-! Runs of the machine: two requests, a response received byte by byte, a frame sent byte by byte, and the whole
transactions made of them (43_mac_controller.md R140, R150, R151, R154; 95_test_vectors.md P1, P3). -/

namespace Sys2Proof.Machine

open Sys2Proof.Safety

/-! ### Steps of a run -/

theorem runSteps_one (s : State) : runSteps 1 s = step s := by
  cases h : step s with
  | next t => exact runSteps_of_step h 0
  | fault f => simp [runSteps, Host.Core.run, core, h]
  | refused r => simp [runSteps, Host.Core.run, core, h]

/-- A run of one step more ends with that step. -/
theorem runSteps_succ {s t : State} {n : Nat} (h : runSteps n s = .next t) : runSteps (n + 1) s = step t :=
  (runSteps_add n 1 h).trans (runSteps_one t)

/-! ### Requests (R133, R135) -/

theorem step_req_accepted {s : State} {c : Byte} {b : ReqBundle} {f : List Byte} {rest : List Input}
    (hst : s.st = .idle) (hwf : b.wf = true) (hf : encodeFrame b.addr b.cmd b.len b.data = .ok f)
    (hin : s.inbox = .ev (evWord 0x01#8 c) b :: rest) :
    step s = .next { acceptRequest c f s with inbox := rest, phyOut := s.phyOut ++ [.enableTransmit] } :=
  (step_scheduled hin (decode_encode_req hwf)).trans (exec_req_accepted (s := { s with inbox := rest }) hst c hf)

theorem step_req_busy {s : State} {c : Byte} {b : ReqBundle} {rest : List Input} (hl : s.st.unused = false)
    (hst : s.st ≠ .idle) (hwf : b.wf = true) (hin : s.inbox = .ev (evWord 0x01#8 c) b :: rest) :
    step s = .next (emitHost c .busy { s with inbox := rest }) :=
  (step_scheduled hin (decode_encode_req hwf)).trans (exec_req_busy (s := { s with inbox := rest }) hl hst c b)

/-- Settles O28: acceptance leaves `IDLE`, and the second request finds a busy block. -/
theorem secondRequestIsBusy : Obligations.SecondRequestIsBusy := by
  intro s c1 c2 b1 b2 rest hst hwf1 hwf2 hcmd hlen hin
  obtain ⟨f, hf⟩ := encodeFrame_of_wf hwf1 hcmd hlen
  have hfirst := runSteps_of_step (step_req_accepted hst hwf1 hf hin) 1
  refine ⟨emitHost c2 .busy { acceptRequest c1 f s with inbox := rest, phyOut := s.phyOut ++ [.enableTransmit] },
    ?_, rfl, rfl, rfl, rfl⟩
  exact hfirst.trans ((runSteps_one _).trans (step_req_busy rfl nofun hwf2 rfl))

/-! ### A response, byte by byte (R145, R150) -/

/-- The length that the bytes received announce: nothing before the 8th (R145). -/
def announced (got : List Byte) : U9 := if 8 ≤ got.length then frameLength (got.getD 7 0#8) else 0

/-- A fresh `AWAIT_RSP` state with these bytes stored and counted. -/
def received (got : List Byte) (s : State) : State :=
  { s with rxb := s.rxb.writeBytes 0 got, rxCnt := BitVec.ofNat 9 got.length, rxExp := announced got }

/-- The frame that these bytes begin is not complete. -/
def Short (got : List Byte) : Prop := got.length < 9 + (got.getD 7 0#8).toNat

theorem received_nil {s : State} (hcnt : s.rxCnt = 0) (hexp : s.rxExp = 0) : received [] s = s := by
  cases s
  subst hcnt hexp
  rfl

theorem writeBytes_concat (m : Memory) (i : Nat) (bs : List Byte) (b : Byte) :
    m.writeBytes i (bs ++ [b]) = (m.writeBytes i bs).write (i + bs.length) b := by
  induction bs generalizing m i with
  | nil => rfl
  | cons a bs ih => simp [Memory.writeBytes, ih, Nat.add_assoc, Nat.add_comm 1]

theorem received_rxCnt_toNat {got : List Byte} (hl : got.length ≤ 264) (s : State) :
    (received got s).rxCnt.toNat = got.length :=
  Nat.mod_eq_of_lt (Nat.lt_of_le_of_lt hl (by decide))

theorem announced_concat {got : List Byte} (hl : got.length < 264) (b : Byte) :
    announced (got ++ [b]) = if BitVec.ofNat 9 got.length + 1 = 8#9 then frameLength b else announced got := by
  have hcnt : (BitVec.ofNat 9 got.length).toNat = got.length :=
    Nat.mod_eq_of_lt (hl.trans (by decide))
  have h8 : BitVec.ofNat 9 got.length + 1 = 8#9 ↔ got.length = 7 := by bv_omega
  simp only [announced, h8, List.length_append, List.length_singleton]
  split
  · next hge =>
    split
    · next h7 => simp [← h7]
    · next h7 => rw [if_pos (by omega), List.getD_append _ _ _ _ (by omega)]
  · next hlt => rw [if_neg (by omega), if_neg (by omega)]

/-- To store a byte is to have received one more. -/
theorem stored_received {got : List Byte} (hl : got.length < 264) (b : Byte) (s : State) :
    stored b (received got s) = received (got ++ [b]) s := by
  have hmem : (received got s).rxb.write (received got s).rxCnt.toNat b = s.rxb.writeBytes 0 (got ++ [b]) := by
    rw [received_rxCnt_toNat hl.le, writeBytes_concat, Nat.zero_add]
    rfl
  have hcnt : BitVec.ofNat 9 got.length + 1 = BitVec.ofNat 9 (got ++ [b]).length := by
    simp [BitVec.ofNat_add]
  calc stored b (received got s)
      = { s with rxb := (received got s).rxb.write (received got s).rxCnt.toNat b
                 rxCnt := BitVec.ofNat 9 got.length + 1
                 rxExp := if BitVec.ofNat 9 got.length + 1 = 8#9 then frameLength b else announced got } := rfl
    _ = received (got ++ [b]) s := by rw [hmem, ← announced_concat hl, hcnt, received]

theorem frameComplete_received {got : List Byte} (hl : got.length ≤ 264) (s : State) :
    frameComplete (received got s) = true ↔ 8 ≤ got.length ∧ got.length = 9 + (got.getD 7 0#8).toNat := by
  have hexp : (received got s).rxExp = announced got := rfl
  rw [frameComplete_iff, received_rxCnt_toNat hl, hexp, announced]
  split
  · rw [frameLength_toNat]
    omega
  · next h8 => exact ⟨fun h => absurd rfl h.1, fun h => absurd h.1 h8⟩

/-- A frame fits in `rxb` (10_state.md R29). -/
theorem frame_length_le {got : List Byte} (h : got.length ≤ 9 + (got.getD 7 0#8).toNat) : got.length ≤ 264 := by
  have := (got.getD 7 0#8).isLt
  omega

/-- A frame is short at each of its bytes before the last. -/
theorem short_of_append {got more : List Byte} (h : (got ++ more).length ≤ 9 + ((got ++ more).getD 7 0#8).toNat)
    (hmore : more ≠ []) : Short got := by
  have hpos := List.length_pos_iff.mpr hmore
  rw [List.length_append] at h
  unfold Short
  by_cases h9 : got.length < 9
  · omega
  · rw [List.getD_append _ _ _ _ (by omega)] at h
    omega

theorem step_received_short {s : State} {got : List Byte} {b : Byte} {rest : List Input} (hst : s.st = .awaitRsp)
    (hshort : Short (got ++ [b])) (hin : s.inbox = .ev (evWord 0x06#8 b) ReqBundle.zero :: rest) :
    step (received got s) = .next (received (got ++ [b])
      { s with inbox := rest, phyOut := s.phyOut ++ [.readByte s.cfg.val.deadlineNext] }) := by
  have hle := frame_length_le hshort.le
  have hl : got.length < 264 := by simpa using hle
  have hstored := stored_received hl b { s with inbox := rest }
  have hc : ¬frameComplete (stored b (received got { s with inbox := rest })) = true := by
    rw [hstored, frameComplete_received hle]
    exact fun h => absurd h.2 hshort.ne
  have hexec := exec_rxByte_short (s := received got { s with inbox := rest }) hst
    (by rwa [received_rxCnt_toNat hl.le]) hc
  rw [hstored] at hexec
  exact (step_scheduled (s := received got s) hin (decode_rxByte b _)).trans hexec

/-- The last byte of a frame hands all of its bytes to DECODE (10_state.md R32). -/
theorem step_received_last {s : State} {got : List Byte} {b : Byte} {rest : List Input} (hst : s.st = .awaitRsp)
    (hlen : (got ++ [b]).length = 9 + ((got ++ [b]).getD 7 0#8).toNat)
    (hin : s.inbox = .ev (evWord 0x06#8 b) ReqBundle.zero :: rest) :
    step (received got s) = completeResponse (got ++ [b]) (received (got ++ [b]) { s with inbox := rest }) := by
  have hle := frame_length_le hlen.le
  have hl : got.length < 264 := by simpa using hle
  have hstored := stored_received hl b { s with inbox := rest }
  have hc : frameComplete (stored b (received got { s with inbox := rest })) = true := by
    rw [hstored, frameComplete_received hle]
    omega
  have hread := readBytes_writeBytes (buf := .rxb) s.rxb (i := 0) (bs := got ++ [b]) (by simpa using hle)
  have hexec := exec_rxByte_complete (s := received got { s with inbox := rest }) hst
    (by rwa [received_rxCnt_toNat hl.le]) hc (bytes := got ++ [b]) (by rwa [hstored, received_rxCnt_toNat hle])
  rw [hstored] at hexec
  exact (step_scheduled (s := received got s) hin (decode_rxByte b _)).trans hexec

/-- Each byte of a frame before the last is stored, and the next one called for. -/
theorem runSteps_received {more got : List Byte} {s : State} {rest : List Input} (hst : s.st = .awaitRsp)
    (hshort : Short (got ++ more)) (hin : s.inbox = responseEvents more ++ rest) :
    runSteps more.length (received got s) = .next (received (got ++ more)
      { s with inbox := rest
               phyOut := s.phyOut ++ List.replicate more.length (.readByte s.cfg.val.deadlineNext) }) := by
  induction more generalizing got s with
  | nil =>
    simp only [responseEvents, List.map_nil, List.nil_append] at hin
    simp [← hin]
  | cons b more ih =>
    rw [List.append_cons] at hshort ⊢
    have hshort1 : Short (got ++ [b]) := by
      cases more with
      | nil => simpa using hshort
      | cons => exact short_of_append hshort.le nofun
    have hstep := step_received_short (rest := responseEvents more ++ rest) hst hshort1 hin
    have hrun := ih (s := { s with inbox := responseEvents more ++ rest
                                   phyOut := s.phyOut ++ [.readByte s.cfg.val.deadlineNext] }) hst hshort rfl
    rw [List.length_cons, runSteps_of_step hstep, hrun]
    simp [List.replicate_succ]

/-- A whole response is received and judged (R145, R150). -/
theorem runSteps_response {s : State} {bytes : List Byte} {rest : List Input} (hst : s.st = .awaitRsp)
    (hcnt : s.rxCnt = 0) (hexp : s.rxExp = 0) (hlen : bytes.length = 9 + (bytes.getD 7 0#8).toNat)
    (hin : s.inbox = responseEvents bytes ++ rest) :
    runSteps bytes.length s = completeResponse bytes (received bytes
      { s with inbox := rest
               phyOut := s.phyOut ++ List.replicate (bytes.length - 1) (.readByte s.cfg.val.deadlineNext) }) := by
  obtain rfl | ⟨init, b, rfl⟩ := List.eq_nil_or_concat' bytes
  · simp at hlen
  · have hin' : s.inbox = responseEvents init ++ (responseEvents [b] ++ rest) := by
      rw [hin, ← List.append_assoc, responseEvents, List.map_append]
      rfl
    have hrun := runSteps_received (got := []) hst (short_of_append hlen.le nofun) hin'
    rw [received_nil hcnt hexp] at hrun
    rw [List.length_append, List.length_singleton, runSteps_succ hrun]
    exact step_received_last hst hlen rfl

/-- Settles O40: all the bytes are stored in order, and the last hands them to DECODE. -/
theorem responseReceivedInFull : Obligations.ResponseReceivedInFull := by
  intro s bytes rest hst hcnt hexp _ hlen hin
  have hrun := runSteps_response hst hcnt hexp hlen hin
  have hread : ∀ j, j < bytes.length → (s.rxb.writeBytes 0 bytes).read j = bytes[j]? := fun j hj => by
    simp [read_writeBytes, hj]
  have hcount := received_rxCnt_toNat (frame_length_le hlen.le) s
  cases hd : decodeFrame bytes with
  | ok df =>
    refine ⟨_, hrun.trans (completeResponse_ok hd _), rfl, hcount, hread, rfl, ?_, nofun, nofun⟩
    rintro _ ⟨⟩
    exact ⟨rfl, rfl⟩
  | error e =>
    refine ⟨_, hrun.trans (completeResponse_error hd _), rfl, hcount, hread, rfl, nofun, ?_, ?_⟩
    all_goals
      rintro ⟨⟩
      exact ⟨rfl, rfl⟩

end Sys2Proof.Machine
end
section
/-! Whole transactions, run from the request to the report: one that succeeds at once, and one whose every attempt
times out (43_mac_controller.md R140, R151, R154, R157; 95_test_vectors.md P1, P3). -/

namespace Sys2Proof.Machine

open Sys2Proof.Safety

/-! ### The frame goes out (R137, R142) -/

/-- The PHY accepts the enable call. -/
abbrev enabledEvent : Input := .ev (evWord 0x02#8 0#8) ReqBundle.zero

/-- The PHY accepts a byte. -/
abbrev writtenEvent : Input := .ev (evWord 0x04#8 0#8) ReqBundle.zero

/-- `txf[0..16]` holds this frame. -/
def HoldsFrame (s : State) (f : List Byte) : Prop := f.length = 17 ∧ ∀ j, j < 17 → s.txf.read j = f[j]?

theorem holdsFrame_acceptRequest {f : List Byte} (hf : f.length = 17) (c : Byte) (s : State) :
    HoldsFrame (acceptRequest c f s) f :=
  ⟨hf, fun j hj => by rw [read_txf_acceptRequest hf, if_pos hj]⟩

theorem step_txenOk {s : State} {b0 : Byte} {rest : List Input} (hst : s.st = .awaitEn) (hb : s.txf.read 0 = some b0)
    (hin : s.inbox = enabledEvent :: rest) :
    step s = .next { s with txIdx := 0, st := .tx, inbox := rest, phyOut := s.phyOut ++ [.writeByte b0] } :=
  (step_scheduled hin (decode_txenOk 0#8 _)).trans (exec_txenOk (s := { s with inbox := rest }) hst 0#8 hb)

theorem step_wrOk_next {s : State} {b : Byte} {rest : List Input} (hst : s.st = .tx) (hi : s.txIdx.toNat < 16)
    (hb : s.txf.read (s.txIdx.toNat + 1) = some b) (hin : s.inbox = writtenEvent :: rest) :
    step s = .next { s with txIdx := s.txIdx + 1, inbox := rest, phyOut := s.phyOut ++ [.writeByte b] } :=
  (step_scheduled hin (decode_wrOk 0#8 _)).trans (exec_wrOk_next (s := { s with inbox := rest }) hst 0#8 hi hb)

theorem step_wrOk_last {s : State} {rest : List Input} (hst : s.st = .tx) (hi : s.txIdx.toNat = 16)
    (hin : s.inbox = writtenEvent :: rest) :
    step s = .next { s with txIdx := 17, rxCnt := 0, rxExp := 0, st := .awaitRsp, inbox := rest,
                            phyOut := s.phyOut ++ [.readByte s.cfg.val.deadlineFirst] } :=
  (step_scheduled hin (decode_wrOk 0#8 _)).trans (exec_wrOk_last (s := { s with inbox := rest }) hst 0#8 hi)

/-- Each accepted byte before the 17th calls for the next of the frame. -/
theorem runSteps_written {more : List Byte} {s : State} {rest : List Input} (hst : s.st = .tx)
    (hidx : s.txIdx.toNat + more.length ≤ 16)
    (hread : ∀ j, j < more.length → s.txf.read (s.txIdx.toNat + 1 + j) = more[j]?)
    (hin : s.inbox = List.replicate more.length writtenEvent ++ rest) :
    runSteps more.length s = .next { s with txIdx := s.txIdx + BitVec.ofNat 5 more.length, inbox := rest
                                            phyOut := s.phyOut ++ more.map .writeByte } := by
  induction more generalizing s with
  | nil =>
    simp only [List.length_nil, List.replicate_zero, List.nil_append] at hin
    simp [← hin]
  | cons b more ih =>
    rw [List.length_cons] at hidx hread hin
    have hnext : (s.txIdx + 1).toNat = s.txIdx.toNat + 1 := by bv_omega
    have hread1 : ∀ j, j < more.length → s.txf.read ((s.txIdx + 1).toNat + 1 + j) = more[j]? := fun j hj => by
      have hj1 := hread (j + 1) (by omega)
      rw [List.getElem?_cons_succ] at hj1
      rw [hnext, ← hj1]
      congr 1
      omega
    have hstep := step_wrOk_next (rest := List.replicate more.length writtenEvent ++ rest) hst (by omega)
      (hread 0 (by omega)) hin
    have hrun := ih (s := { s with txIdx := s.txIdx + 1, inbox := List.replicate more.length writtenEvent ++ rest,
                                   phyOut := s.phyOut ++ [.writeByte b] }) hst (by simp only [hnext]; omega) hread1 rfl
    rw [List.length_cons, runSteps_of_step hstep, hrun]
    simp [BitVec.ofNat_add, BitVec.add_assoc, BitVec.add_comm 1#5]

/-- The enable and 17 accepted bytes send the frame, and the first response byte is called for. -/
theorem runSteps_sent {s : State} {f : List Byte} {rest : List Input} (hst : s.st = .awaitEn) (hf : HoldsFrame s f)
    (hin : s.inbox = enabledEvent :: (List.replicate 17 writtenEvent ++ rest)) :
    runSteps 18 s = .next { s with
      txIdx := 17, rxCnt := 0, rxExp := 0, st := .awaitRsp, inbox := rest
      phyOut := s.phyOut ++ f.map .writeByte ++ [.readByte s.cfg.val.deadlineFirst] } := by
  obtain ⟨hlen, hread⟩ := hf
  match f, hlen with
  | b0 :: more, hlen =>
    have hmore : more.length = 16 := by simpa using hlen
    have hstep := step_txenOk hst (hread 0 (by omega)) hin
    have hwritten := runSteps_written (more := more) (rest := writtenEvent :: rest)
      (s := { s with txIdx := 0, st := .tx, inbox := List.replicate 17 writtenEvent ++ rest,
                     phyOut := s.phyOut ++ [.writeByte b0] })
      rfl (by simp [hmore]) (fun j hj => by simpa [Nat.add_comm 1] using hread (j + 1) (by omega)) (by rw [hmore]; rfl)
    rw [hmore] at hwritten
    rw [runSteps_of_step hstep 17, runSteps_succ hwritten, step_wrOk_last rfl rfl rfl]
    simp

/-! ### The report (R157) -/

theorem step_resolveStep {s : State} {c : Byte} {r : TransactionResult} {rest : List Input} (hst : s.st = .resolved)
    (ho : s.owner = some c) (hr : s.res = some r) (hin : s.inbox = .internal :: rest) :
    step s = .next (afterReport (emitHost c r { s with inbox := rest })) :=
  (step_scheduled hin (decode_st_resolved hst)).trans (exec_resolveStep (s := { s with inbox := rest }) hst ho hr)

/-! ### A transaction that succeeds (R140, R151) -/

/-- Settles O54: acceptance, the frame sent, the response received, and the report. -/
theorem transactionSucceeds : Obligations.TransactionSucceeds := by
  intro s c b r f df hst hwf hf hd hin
  obtain ⟨hlen, -, hbc⟩ := structure_of_decodeFrame_ok hd
  simp only [List.append_assoc, List.cons_append, List.nil_append] at hin
  have haccept := step_req_accepted hst hwf hf hin
  have hsent := runSteps_sent (s := { acceptRequest c f s with
      inbox := enabledEvent :: (List.replicate 17 writtenEvent ++ (responseEvents r ++ [.internal]))
      phyOut := s.phyOut ++ [.enableTransmit] }) rfl (holdsFrame_acceptRequest (length_of_encodeFrame hf) c s) rfl
  have hresponse := runSteps_response (s := { acceptRequest c f s with
      txIdx := 17, rxCnt := 0, rxExp := 0, st := .awaitRsp, inbox := responseEvents r ++ [.internal]
      phyOut := s.phyOut ++ [.enableTransmit] ++ f.map .writeByte ++ [.readByte s.cfg.val.deadlineFirst] })
    rfl rfl rfl (by rw [hlen, hbc]; rfl) rfl
  rw [completeResponse_ok hd, hlen] at hresponse
  have hrun := (runSteps_succ hresponse).trans (step_resolveStep rfl rfl rfl rfl)
  exact ⟨_, (runSteps_of_step haccept 36).trans ((runSteps_add 18 18 hsent).trans hrun), rfl, rfl, rfl, rfl⟩

/-! ### Attempts that time out (R154) -/

theorem step_rxTimeout {s : State} {rest : List Input} (hst : s.st = .awaitRsp)
    (hin : s.inbox = .ev (evWord 0x07#8 0#8) ReqBundle.zero :: rest) :
    step s = .next { s with lastCause := .timeout, st := .retry, inbox := rest } :=
  (step_scheduled hin (decode_rxTimeout 0#8 _)).trans
    (onAnswer_failAttempt (s := { s with inbox := rest }) hst rfl .timeout)

theorem step_retryStep {s : State} {rest : List Input} (hst : s.st = .retry) (hin : s.inbox = .internal :: rest) :
    step s = returnFromError { s with inbox := rest } :=
  (step_scheduled hin (decode_st_retry hst)).trans (exec_retryStep (s := { s with inbox := rest }) hst)

/-- One attempt: the frame sent, the time-out, and the retry step's turn. -/
theorem runSteps_timedOutAttempt {s : State} {f : List Byte} {rest : List Input} (hst : s.st = .awaitEn)
    (hf : HoldsFrame s f) (hin : s.inbox = timedOutAttempt ++ rest) :
    runSteps 20 s = returnFromError { s with
      txIdx := 17, rxCnt := 0, rxExp := 0, lastCause := .timeout, st := .retry, inbox := rest
      phyOut := s.phyOut ++ f.map .writeByte ++ [.readByte s.cfg.val.deadlineFirst] } := by
  have hsent := runSteps_sent (rest := .ev (evWord 0x07#8 0#8) ReqBundle.zero :: .internal :: rest) hst hf hin
  have htimeout := (runSteps_succ hsent).trans (step_rxTimeout rfl rfl)
  exact (runSteps_succ htimeout).trans (step_retryStep rfl rfl)

/-- The calls of an attempt whose response never comes (95_test_vectors.md P3). -/
def timedOutCalls (f : List Byte) (deadline : Nat) : List PhyCall :=
  [.enableTransmit] ++ f.map .writeByte ++ [.readByte deadline]

/-- `MAX_RETRIES` + 1 fits in `retry_cnt` (00_scope.md R9). -/
theorem maxRetries_le (p : Config.Params) : p.val.maxRetries ≤ 254 := by
  have hok := p.property
  simp only [Config.RawParams.ok, Bool.and_eq_true, decide_eq_true_eq] at hok
  obtain ⟨⟨⟨⟨hretries, -⟩, -⟩, -⟩, -⟩ := hok
  exact hretries

/-- From an attempt whose enable call is issued, with `n` more in the budget, the transaction ends exhausted. -/
theorem runSteps_timedOutAttempts {n : Nat} {s : State} {f : List Byte} {rest : List Input} (hst : s.st = .awaitEn)
    (hf : HoldsFrame s f) (hn : s.retryCnt.toNat + n = s.cfg.val.maxRetries)
    (hin : s.inbox = timedOutAttempts (n + 1) ++ rest) :
    runSteps (20 * (n + 1)) s = .next { s with
      retryCnt := BitVec.ofNat 8 (s.cfg.val.maxRetries + 1), txIdx := 17, rxCnt := 0, rxExp := 0
      lastCause := .timeout, st := .resolved
      res := some (.commFailure .retriesExhausted (BitVec.ofNat 8 (s.cfg.val.maxRetries + 1)) .timeout), inbox := rest
      phyOut := s.phyOut ++ f.map .writeByte ++ [.readByte s.cfg.val.deadlineFirst] ++
        (List.replicate n (timedOutCalls f s.cfg.val.deadlineFirst)).flatten } := by
  have hmax := maxRetries_le s.cfg
  have hcnt : (s.retryCnt + 1).toNat = s.retryCnt.toNat + 1 := by bv_omega
  induction n generalizing s with
  | zero =>
    have hlast : s.retryCnt + 1 = BitVec.ofNat 8 (s.cfg.val.maxRetries + 1) := by
      rw [← hn, Nat.add_zero, ← hcnt, BitVec.ofNat_toNat, BitVec.setWidth_eq]
    have hrun := (runSteps_timedOutAttempt hst hf hin).trans (returnFromError_end (by dsimp only; omega))
    rw [Nat.zero_add, Nat.mul_one, hrun]
    simpa using hlast
  | succ n ih =>
    have hagain := (runSteps_timedOutAttempt (rest := timedOutAttempts (n + 1) ++ rest) hst hf
      (by rw [hin, timedOutAttempts, List.append_assoc])).trans (returnFromError_again (by dsimp only; omega))
    have hrest := ih (s := { s with
        retryCnt := s.retryCnt + 1, txIdx := 0, rxCnt := 0, rxExp := 0, lastCause := .timeout, st := .awaitEn
        inbox := timedOutAttempts (n + 1) ++ rest
        phyOut := s.phyOut ++ f.map .writeByte ++ [.readByte s.cfg.val.deadlineFirst] ++ [.enableTransmit] })
      rfl hf (by dsimp only; omega) rfl hmax (by dsimp only; bv_omega)
    rw [Nat.mul_succ, Nat.add_comm, runSteps_add 20 _ hagain, hrest]
    simp [timedOutCalls, List.replicate_succ]

/-- Settles O55: acceptance, `MAX_RETRIES` + 1 attempts that time out, and the report. -/
theorem retryBound : Obligations.RetryBound := by
  intro s c b f hst hwf hf hin
  have haccept := step_req_accepted hst hwf hf hin
  have hattempts := runSteps_timedOutAttempts (n := s.cfg.val.maxRetries) (rest := [.internal])
    (s := { acceptRequest c f s with
      inbox := timedOutAttempts (s.cfg.val.maxRetries + 1) ++ [.internal]
      phyOut := s.phyOut ++ [.enableTransmit] })
    rfl (holdsFrame_acceptRequest (length_of_encodeFrame hf) c s) (Nat.zero_add _) rfl
  have hrun := (runSteps_succ hattempts).trans (step_resolveStep rfl rfl rfl rfl)
  have hall := (runSteps_of_step haccept _).trans hrun
  refine ⟨_, (congrArg (runSteps · s) (by omega)).trans hall, rfl, rfl, rfl, ?_⟩
  simp [List.replicate_succ, timedOutCalls]

end Sys2Proof.Machine
end
section
/-! What an external reset request does (70_reset_and_hazards.md R188, R189), and that a transaction ends within its
budget of attempts: what `workLeft` is in each state, and what each move does to it (70_reset_and_hazards.md R200). -/

namespace Sys2Proof.Machine

open Sys2Proof.Safety

/-! ### The external reset request (R188; log 21) -/

theorem exec_resetReq_idle {s : State} (h : s.st = .idle) (x : Byte) :
    exec (.resetReq x) s = .next (clearForReset s) :=
  (inLegalState_of_legal (by rw [h]; rfl) _).trans (if_neg (by simp [busy, h]))

theorem exec_resetReq_busy {s : State} (hl : s.st.unused = false) (h : s.st ≠ .idle) (x : Byte) {c : Byte}
    (ho : s.owner = some c) :
    exec (.resetReq x) s = .next (clearForReset (emitHost c (.commFailure .reset s.retryCnt s.lastCause) s)) := by
  refine (inLegalState_of_legal hl _).trans ((if_pos (by simpa [busy] using h)).trans ?_)
  rw [abandon, ho]

/-- Settles O36: by whether the block is busy; the fields of `clearForReset` are those of the statement. -/
theorem resetRequestAbandons : Obligations.ResetRequestAbandons := fun _ x hl =>
  ⟨fun h => exec_resetReq_idle h x, fun _ h ho => exec_resetReq_busy hl h x ho⟩

/-! ### The work left, by `st` (R200) -/

/-- The steps of the attempts still in the budget after the present one: the first term of `workLeft`. -/
def laterWork (p : Config.Params) (retryCnt : Byte) : Nat := (p.val.maxRetries - retryCnt.toNat) * attemptSteps

theorem workLeft_idle {s : State} (h : s.st = .idle) : workLeft s = 0 := by
  simp only [workLeft, h]

theorem workLeft_resolved {s : State} (h : s.st = .resolved) : workLeft s = 1 := by
  simp only [workLeft, h]

theorem workLeft_retry {s : State} (h : s.st = .retry) : workLeft s = laterWork s.cfg s.retryCnt + 2 := by
  simp only [workLeft, h, laterWork]

theorem workLeft_awaitRsp {s : State} (h : s.st = .awaitRsp) :
    workLeft s = laterWork s.cfg s.retryCnt + 2 + (264 - s.rxCnt.toNat) := by
  simp only [workLeft, h, laterWork]

theorem workLeft_tx {s : State} (h : s.st = .tx) :
    workLeft s = laterWork s.cfg s.retryCnt + 266 + (17 - s.txIdx.toNat) := by
  simp only [workLeft, h, laterWork]

theorem workLeft_awaitEn {s : State} (h : s.st = .awaitEn) : workLeft s = laterWork s.cfg s.retryCnt + 284 := by
  simp only [workLeft, h, laterWork]

/-- A retry step within the budget spends the steps of one attempt. -/
theorem laterWork_succ {p : Config.Params} {n : Byte} (hn : n.toNat ≤ p.val.maxRetries)
    (hb : (n + 1).toNat ≤ p.val.maxRetries) : laterWork p (n + 1) + attemptSteps = laterWork p n := by
  have hmax := maxRetries_le p
  have hcnt : (n + 1).toNat = n.toNat + 1 := by bv_omega
  rw [laterWork, laterWork, hcnt, attemptSteps]
  omega

theorem laterWork_le (p : Config.Params) (n : Byte) : laterWork p n ≤ p.val.maxRetries * attemptSteps :=
  Nat.mul_le_mul_right _ (Nat.sub_le _ _)

/-- At most the present attempt, those after it, and the report. -/
theorem workLeft_le (s : State) : workLeft s ≤ (s.cfg.val.maxRetries + 1) * attemptSteps + 1 := by
  have hlater := laterWork_le s.cfg s.retryCnt
  rw [attemptSteps] at hlater ⊢
  cases h : s.st with
  | idle => rw [workLeft_idle h]; omega
  | awaitEn => rw [workLeft_awaitEn h]; omega
  | tx => rw [workLeft_tx h]; omega
  | awaitRsp => rw [workLeft_awaitRsp h]; omega
  | retry => rw [workLeft_retry h]; omega
  | resolved => rw [workLeft_resolved h]; omega
  | unused6 | unused7 => simp only [workLeft, h]; omega

/-- Giving up the attempt in flight leaves less work than going on with it. -/
theorem failed_lt_workLeft {s : State} (h : Inv s) (hw : waitsForPhy s.st = true) :
    laterWork s.cfg s.retryCnt + 2 < workLeft s := by
  cases hst : s.st with
  | awaitEn => rw [workLeft_awaitEn hst]; omega
  | tx => rw [workLeft_tx hst]; omega
  | awaitRsp =>
    have hroom := h.rxCnt_lt hst
    rw [workLeft_awaitRsp hst]
    omega
  | _ => simp [hst, waitsForPhy] at hw

/-! ### The moves (R200) -/

/-- A move that advances the transaction leaves less work, and no other move of a busy block leaves more. -/
theorem Moves.workLeft_cases {s t : State} {i : Instr} (h : Inv s) (hm : Moves s i t) :
    workLeft t < workLeft s ∨ (advances s.st i = false ∧ (s.st ≠ .idle → workLeft t ≤ workLeft s)) := by
  cases hm with
  | stray hi => exact .inr ⟨advances_of_stray hi, fun _ => le_rfl⟩
  | answered _ hi => exact .inr ⟨advances_of_fn hi _, fun _ => le_rfl⟩
  | delivered _ hi => exact .inr ⟨advances_of_wire hi _, fun _ => le_rfl⟩
  | reqBusy | reqRejected => exact .inr ⟨rfl, fun _ => le_rfl⟩
  | reqAccepted hst => exact .inr ⟨rfl, fun hb => absurd hst hb⟩
  | resetIdle | resetBusy => exact .inr ⟨rfl, fun _ => (workLeft_idle rfl).trans_le (Nat.zero_le _)⟩
  | enabled hst =>
    left
    rw [workLeft_tx rfl, workLeft_awaitEn hst]
    dsimp only
    bv_omega
  | byteWritten hst hn hl =>
    left
    have hidx := h.tx_bound hst
    rw [workLeft_tx (by exact hst), workLeft_tx hst]
    dsimp only
    bv_omega
  | frameWritten hst hn =>
    left
    have hidx := h.tx_bound hst
    rw [workLeft_awaitRsp rfl, workLeft_tx hst]
    dsimp only
    bv_omega
  | byteReceived hst hl =>
    left
    rw [workLeft_awaitRsp (by exact hst), workLeft_awaitRsp hst]
    simp only [countByte_cfg, countByte_retryCnt, stored_rxCnt_toNat hl]
    omega
  | enableFailed hst | writeFailed hst | frameRefused hst | timedOut hst | readFailed hst =>
    left
    exact (workLeft_retry rfl).trans_lt (failed_lt_workLeft h (by simp [hst, waitsForPhy]))
  | frameAccepted hst =>
    left
    have hfail := failed_lt_workLeft h (by simp [hst, waitsForPhy])
    rw [workLeft_resolved rfl]
    omega
  | retryAgain hst hb =>
    left
    have hlater := laterWork_succ (h.retry_budget hst).1 hb
    rw [attemptSteps] at hlater
    rw [workLeft_awaitEn rfl, workLeft_retry hst]
    dsimp only
    omega
  | retryEnd hst =>
    left
    rw [workLeft_resolved rfl, workLeft_retry hst]
    omega
  | reported hst =>
    left
    rw [workLeft_idle rfl, workLeft_resolved hst]
    exact Nat.zero_lt_one

/-- Settles O53: by the cases of a move, and the bound in each state. -/
theorem transactionsTerminate : Obligations.TransactionsTerminate := by
  refine ⟨fun s t i h hexec hadv => ?_, fun s t i h hexec hbusy => ?_, workLeft_le⟩
  · obtain hlt | ⟨hno, -⟩ := (exec_moves hexec).workLeft_cases h
    · exact hlt
    · simp [hno] at hadv
  · obtain hlt | ⟨-, hle⟩ := (exec_moves hexec).workLeft_cases h
    · exact hlt.le
    · exact hle hbusy

end Sys2Proof.Machine
end
